-- ==== Sys2Proof/Word.lean ====
section
/-! DEFINITION. The byte, and the pixel of four 8-bit channels (spec 00_scope.md R4 CHANNEL_W, R6, R9). -/

namespace Sys2Proof

/-- A byte: 8 bits, bit 7 the most significant (R6). -/
abbrev Byte := BitVec 8

/-- A pixel: "four 8-bit channels (r, g, b, a)" (R9). -/
structure Pixel where
  r : Byte
  g : Byte
  b : Byte
  a : Byte
  deriving DecidableEq, Repr, Inhabited

/-- PREV_INIT, the previous pixel at the start of every decode (R4, R15). -/
def Pixel.prevInit : Pixel := ⟨0, 0, 0, 255⟩

/-- CACHE_INIT, the content of every cache slot at the start of a decode (R4, R16). -/
def Pixel.blank : Pixel := ⟨0, 0, 0, 0⟩

end Sys2Proof
end

