-- ==== Sys2Proof/Syntax.lean ====
section
/-! DEFINITION. The chunk grammar as data: the six chunk kinds and the chunk record (spec 10_state.md R19). Fields hold
the STORED values, unsigned and still biased, exactly as cut from the stream (30_encoding.md R70). -/

namespace Sys2Proof

/-- The six chunk kinds (00_scope.md R1). -/
inductive ChunkKind where
  | rgb
  | rgba
  | index
  | diff
  | luma
  | run
  deriving DecidableEq, Repr

/-- A chunk record: one constructor per row of opcode_table.json (R19). -/
inductive Instr where
  /-- RGB: three raw channel bytes (30_encoding.md R62). -/
  | rgb (r g b : Byte)
  /-- RGBA: four raw channel bytes (R63). -/
  | rgba (r g b a : Byte)
  /-- INDEX: a cache slot 0..63 (R64). -/
  | index (slot : BitVec 6)
  /-- DIFF: three deltas, each stored with bias 2 (R65). -/
  | diff (dr dg db : BitVec 2)
  /-- LUMA: the green delta stored with bias 32, the red and blue ones relative to it with bias 8 (R66). -/
  | luma (dg : BitVec 6) (drDg dbDg : BitVec 4)
  /-- RUN: the stored run, length run + 1; the record admits 0..63, the stream 0..61 (R19, R67). -/
  | run (run : BitVec 6)
  deriving DecidableEq, Repr

/-- The kind of a chunk record. -/
def Instr.kind : Instr → ChunkKind
  | .rgb _ _ _ => .rgb
  | .rgba _ _ _ _ => .rgba
  | .index _ => .index
  | .diff _ _ _ => .diff
  | .luma _ _ _ => .luma
  | .run _ => .run

/-- The KIND code of a chunk in the queue (R19, decision D5); 6 and 7 are never produced. -/
def ChunkKind.code : ChunkKind → BitVec 3
  | .rgb => 0
  | .rgba => 1
  | .index => 2
  | .diff => 3
  | .luma => 4
  | .run => 5

end Sys2Proof
end

