-- ==== Sys2Proof/Config.lean ====
section
/-! DEFINITION. What an implementation fixes (spec 00_scope.md R4, R5; 10_state.md R29) and the values the spec leaves
unspecified. The parameters are an ARGUMENT of the step relation (`Machine.stepWith`); `Config.params` is the
instance `Machine.step` uses (log 3). The free values are constants without a body, drawn with State's counter `freeCtr` (log 9). -/

namespace Sys2Proof

/-- The parameters the source leaves open (R5): a model takes them as an argument. -/
structure Params where
  /-- SIG: the expected value of `MemRead(0, 4)`, the byte at address 0 most significant (R5, decision D6). -/
  sig : BitVec 32
  /-- IBUF_CAP: the capacity of the input buffer in bytes (R5, decision D23). -/
  ibufCap : Nat
  /-- GRID_CAP: the capacity of the output grid in pixels (R5, decision D9). -/
  gridCap : Nat
  deriving DecidableEq, Repr

/-- SIG's default, the bytes 71 6F 69 66 (R5: from general knowledge, not in the source). -/
def Config.sigDefault : BitVec 32 := 0x716F6966

/-- The instance `Machine.step` runs with: SIG at its default; DESIGN CHOICE: capacities so large that no launch is
refused for want of room (unsafe for a claim about `Machine.step` alone; log 3). -/
def Config.params : Params :=
  { sig := Config.sigDefault, ibufCap := 0xFFFFFFFFFFFFFFFF, gridCap := 0xFFFFFFFFFFFFFFFF }

/-- HDR_LEN (R4). -/
def Config.hdrLen : Nat := 14

/-- SIG_LEN (R4). -/
def Config.sigLen : Nat := 4

/-- TAG_RGB (R4). -/
def Config.tagRgb : Byte := 0xFE

/-- TAG_RGBA (R4). -/
def Config.tagRgba : Byte := 0xFF

/-- WIDTH between START and the header stage: undefined (48_host_commands_and_sequence.md R160), log 7. -/
opaque Config.freeWidth : Nat → BitVec 32
/-- HEIGHT between START and the header stage: undefined (R160), log 7. -/
opaque Config.freeHeight : Nat → BitVec 32
/-- CHANNELS between START and the header stage: undefined (R160), log 7. -/
opaque Config.freeChannels : Nat → Byte
/-- COLORSPACE between START and the header stage: undefined (R160), log 7. -/
opaque Config.freeColorspace : Nat → Byte
/-- PREV after DONE or ERROR: unspecified (10_state.md R31), log 8. -/
opaque Config.freePrev : Nat → Pixel
/-- CACHE after DONE or ERROR: unspecified (R31), log 8. -/
opaque Config.freeCache : Nat → Vector Pixel 64
/-- CURSOR after DONE or ERROR: unspecified (R31), log 8. -/
opaque Config.freeCursor : Nat → BitVec 64
/-- Q after DONE or ERROR: unspecified (R31), log 8. -/
opaque Config.freeQueue : Nat → List Instr
/-- Q_RD after DONE or ERROR: unspecified (R31), log 8. -/
opaque Config.freeQRd : Nat → Nat
/-- BYTE_IDX after DONE or ERROR: unspecified (R31), log 8. -/
opaque Config.freeByteIdx : Nat → Nat
/-- BIT_OFF after DONE or ERROR: unspecified (R31), log 8. -/
opaque Config.freeBitOff : Nat → BitVec 3

end Sys2Proof
end

