-- ==== Sys2Proof/Machine/State.lean ====
section
/-! DEFINITION. The state of the core (spec 10_state.md R10: "the complete state of the core is the following and
nothing else"), the model's two fields of its own (`inputs`, `freeCtr`), the ways a step can stop, and the state right after
hardware reset (R30, 70_reset_and_hazards.md R190). -/

namespace Sys2Proof.Machine

/-- STATUS.PHASE: which component is running (R25). -/
inductive Phase where
  | idle
  | hdr
  | parse
  | recon
  | done
  | error
  deriving DecidableEq, Repr

/-- ERR.CODE: no error, or one of the five error kinds (R26, 60_exceptions.md R170). -/
inductive ErrKind where
  | noError
  | badSignature
  | truncated
  | unknownChunkTag
  | bufferOverrun
  | incompleteImage
  deriving DecidableEq, Repr

/-- One move of the host, the second agent (48_host_commands_and_sequence.md R166). Reads change nothing (20_memory.md
R51) and are functions of the state (`readReg`, `readGrid`), not moves. -/
inductive HostMove where
  /-- The host does nothing and the core takes its step. -/
  | tick
  /-- The host writes one byte of IBUF (R166 "load"). -/
  | loadByte (addr : Nat) (b : Byte)
  /-- The host writes register `k` (10_state.md R27): START and BUF_LEN. -/
  | writeReg (k v : Nat)
  /-- Hardware reset (70_reset_and_hazards.md R190). -/
  | reset
  deriving DecidableEq, Repr

/-- A memory space: (address, byte) pairs, addresses strictly rising. An address not listed holds NO value: the
spec leaves IBUF and GRID unspecified until they are written (R30), log 5 and log 6. -/
abbrev Memory := List Host.Cell

/-- Every listed address is above `lo`, and they rise strictly. -/
def Memory.risingFrom : Option Nat → Memory → Bool
  | _, [] => true
  | none, (a, _) :: m => Memory.risingFrom (some a) m
  | some lo, (a, _) :: m => decide (lo < a) && Memory.risingFrom (some a) m

/-- The canonical form. An unlisted address has no value at all, so no listed byte can equal what an unlisted address
reads as, and strictly rising addresses are the whole form. -/
def Memory.wf (m : Memory) : Bool := Memory.risingFrom none m

/-- The state of the core. -/
structure State where
  /-- IBUF, the input byte buffer: written by the host only (20_memory.md R40). -/
  ibuf : Memory
  /-- BUF_LEN, register 3: the number of valid bytes in IBUF (R22). -/
  bufLen : Nat
  /-- WIDTH, register 4 (R11). -/
  width : BitVec 32
  /-- HEIGHT, register 5 (R11). -/
  height : BitVec 32
  /-- CHANNELS, register 6 (R11). -/
  channels : Byte
  /-- COLORSPACE, register 7 (R11). -/
  colorspace : Byte
  /-- BYTE_IDX, the byte part of the parser's bit cursor (R13). -/
  byteIdx : Nat
  /-- BIT_OFF, how many bits of that byte are consumed (R13). -/
  bitOff : BitVec 3
  /-- CHUNKQ, the chunk records in order; Q_LEN is its length (R18). -/
  q : List Instr
  /-- Q_RD, the index of the next record the engine executes (R18). -/
  qRd : Nat
  /-- PREV, the previous pixel (R15). -/
  prev : Pixel
  /-- CACHE[0..63], the color cache (R16). -/
  cache : Vector Pixel 64
  /-- CURSOR, the linear write position (R17). -/
  cursor : BitVec 64
  /-- RUN_REM, the pixel writes a RUN still has to do (R20). -/
  runRem : BitVec 7
  /-- GRID, the output grid, in its byte view (20_memory.md R43, R47). -/
  grid : Memory
  /-- STATUS.PHASE (R24, R25). -/
  phase : Phase
  /-- ERR.CODE (R26). -/
  err : ErrKind
  /-- The MODEL's own: the host's moves still to come, in order. When none is left the core runs alone (log 2). -/
  inputs : List HostMove
  /-- The MODEL's own: the counter the free values are drawn with (log 9). -/
  freeCtr : Nat
  deriving DecidableEq, Repr

/-- Faults: accesses to an address that does not exist or holds no value. No chunk's execution raises one. -/
inductive Fault where
  /-- Raised by the header stage or the parser when it reads an IBUF byte below BUF_LEN that nothing has written since
  reset: outside the launch premises of 70_reset_and_hazards.md R194 (93 U7: "should fault on such a read"). Safe: the
  model stops where a core would read some byte (log 5). -/
  | ibufUnwritten (addr : Nat)
  /-- Raised by the host's `loadByte` at an address at or above IBUF_CAP: there is no such byte (20_memory.md R40).
  Safe (log 16). -/
  | ibufOutOfRange (addr : Nat)
  /-- Raised by the host's grid read outside 0 <= row < HEIGHT, 0 <= col < WIDTH (20_memory.md R43). Safe (log 25). -/
  | gridOutOfRange
  /-- Raised by the host's grid read, in DONE, of an entry the decode has not written; 42_engine_common.md R116 rules it
  out in every run. Safe (log 6). -/
  | gridUnwritten
  deriving DecidableEq, Repr

/-- Refusals: what the spec itself puts outside its meaning. No chunk's execution raises one. -/
inductive Refusal where
  /-- An instruction with no meaning in the model; no arm of `exec` uses it. Safe. -/
  | notModelled (mnemonic : String)
  /-- Raised by START with BUF_LEN above IBUF_CAP, which no register write can produce: outside the launch premises
  (70_reset_and_hazards.md R194). Safe (log 17). -/
  | launchOverIbufCap
  /-- Raised by the header stage when the header gives NPIX > GRID_CAP: "outside the spec and a model refuses it"
  (20_memory.md R43). Safe (log 17). -/
  | launchOverGridCap
  /-- Raised by the host's `loadByte` in HDR, PARSE or RECON: "a model gives the host no such move"
  (70_reset_and_hazards.md R196). Safe (log 15). -/
  | ibufWriteWhileBusy
  /-- Raised by the host's grid read outside DONE: "refused" (20_memory.md R46). Safe. -/
  | gridNotReadable
  deriving DecidableEq, Repr

/-- Right after hardware reset: PHASE = IDLE, ERR.CODE = NONE, BUF_LEN = 0 (R30, 70_reset_and_hazards.md R190). Every
other value is unspecified there. DESIGN CHOICE (unsafe, log 4): the header registers are 0 and every item START
initialises already has its START value. IBUF and GRID list nothing, so they hold no value. -/
def State.reset : State :=
  { ibuf := []
    bufLen := 0
    width := 0
    height := 0
    channels := 0
    colorspace := 0
    byteIdx := 0
    bitOff := 0
    q := []
    qRd := 0
    prev := Pixel.prevInit
    cache := Vector.replicate 64 Pixel.blank
    cursor := 0
    runRem := 0
    grid := []
    phase := .idle
    err := .noError
    inputs := []
    freeCtr := 0 }

end Sys2Proof.Machine
end

