-- ==== Sys2Proof/Machine/Flags.lean ====
section
/-! DEFINITION. The core has no arithmetic flags (spec 10_state.md R28): "the only status bits are PHASE and ERR.CODE".
This file holds those: the codes software reads in STATUS and ERR (R25, R26), and the two level outputs (R24). -/

namespace Sys2Proof.Machine

/-- The PHASE code (R25, decision D3); 6 and 7 are never produced. -/
def phaseCode : Phase → BitVec 3
  | .idle => 0
  | .hdr => 1
  | .parse => 2
  | .recon => 3
  | .done => 4
  | .error => 5

/-- The ERR.CODE of an error kind (R26, decision D4); 6 and 7 are never produced. -/
def errCode : ErrKind → BitVec 3
  | .noError => 0
  | .badSignature => 1
  | .truncated => 2
  | .unknownChunkTag => 3
  | .bufferOverrun => 4
  | .incompleteImage => 5

/-- STATUS as software reads it: PHASE in bits 2:0, bits 31:3 read as 0 (R24). -/
def statusWord (s : State) : BitVec 32 := (phaseCode s.phase).zeroExtend 32

/-- ERR as software reads it: CODE in bits 2:0, bits 31:3 read as 0 (R26). -/
def errWord (s : State) : BitVec 32 := (errCode s.err).zeroExtend 32

/-- The level output `done` (R24). -/
def doneOut (s : State) : Bool := decide (s.phase = .done)

/-- The level output `error` (R24). -/
def errorOut (s : State) : Bool := decide (s.phase = .error)

/-- A decode is running: PHASE is HDR, PARSE or RECON (48_host_commands_and_sequence.md R160). -/
def busy (s : State) : Bool :=
  match s.phase with
  | .idle => false
  | .hdr => true
  | .parse => true
  | .recon => true
  | .done => false
  | .error => false

end Sys2Proof.Machine
end

