-- ==== Sys2Proof/Machine/Operands.lean ====
section
/-! DEFINITION. The operand forms of the six chunks: the arithmetic modulo 256 (spec 00_scope.md R7, 42_engine_common.md
R117), the removal of the biases (30_encoding.md R70), the new pixel of each kind, the run length, and the cache hash
(47_cache_hash.md R155). -/

namespace Sys2Proof.Machine

/-- `add8(x, y) = (x + y) mod 256` (R7). -/
def add8 (x y : Byte) : Byte := x + y

/-- `sub8(x, y) = (x - y) mod 256` (R7). -/
def sub8 (x y : Byte) : Byte := x - y

/-- `mul8(x, k) = (x * k) mod 256` (R7). -/
def mul8 (x k : Byte) : Byte := x * k

/-- The bias of a DIFF field (00_scope.md R4). -/
def biasDiff : Byte := 2

/-- The bias of LUMA's dg (R4). -/
def biasLumaG : Byte := 32

/-- The bias of LUMA's dr_dg and db_dg (R4). -/
def biasLumaRB : Byte := 8

/-- The actual delta of a stored DIFF field, wrapped to 8 bits (45_chunks_diff_luma.md R140). -/
def diffDelta (d : BitVec 2) : Byte := sub8 (d.zeroExtend 8) biasDiff

/-- LUMA's green delta `vg` (R141). -/
def lumaG (dg : BitVec 6) : Byte := sub8 (dg.zeroExtend 8) biasLumaG

/-- LUMA's red or blue delta `vr`, `vb`: relative to the green one (R141). -/
def lumaRB (dg : BitVec 6) (d : BitVec 4) : Byte := add8 (lumaG dg) (sub8 (d.zeroExtend 8) biasLumaRB)

/-- Add a delta to each colour channel; alpha is unchanged (R140, R141). -/
def addDeltas (p : Pixel) (vr vg vb : Byte) : Pixel :=
  { r := add8 p.r vr, g := add8 p.g vg, b := add8 p.b vb, a := p.a }

/-- RGB's new pixel: alpha comes from PREV (43_chunks_rgb_rgba.md R130). -/
def rgbPixel (prev : Pixel) (r g b : Byte) : Pixel := { r := r, g := g, b := b, a := prev.a }

/-- RGBA's new pixel (R131). -/
def rgbaPixel (r g b a : Byte) : Pixel := { r := r, g := g, b := b, a := a }

/-- INDEX's new pixel: the slot verbatim (44_chunk_index.md R135). -/
def indexPixel (cache : Vector Pixel 64) (slot : BitVec 6) : Pixel := cache[slot.toNat]'slot.isLt

/-- DIFF's new pixel (R140). -/
def diffPixel (prev : Pixel) (dr dg db : BitVec 2) : Pixel :=
  addDeltas prev (diffDelta dr) (diffDelta dg) (diffDelta db)

/-- LUMA's new pixel (R141). -/
def lumaPixel (prev : Pixel) (dg : BitVec 6) (drDg dbDg : BitVec 4) : Pixel :=
  addDeltas prev (lumaRB dg drDg) (lumaG dg) (lumaRB dg dbDg)

/-- The run length, stored run + 1: 1..64, without wrap (46_chunk_run.md R150, 90_conflicts.md C2, C3). -/
def runLength (run : BitVec 6) : Nat := run.toNat + 1

/-- The hash: every product and every sum modulo 256, left to right, then modulo 64 (R155). -/
def pixelHash (px : Pixel) : BitVec 6 :=
  let t0 := mul8 px.r 3
  let t1 := mul8 px.g 5
  let t2 := mul8 px.b 7
  let t3 := mul8 px.a 11
  let s := add8 (add8 (add8 t0 t1) t2) t3
  s.extractLsb' 0 6

end Sys2Proof.Machine
end

