-- ==== Sys2Proof/Machine/Ops.lean ====
section
/-! DEFINITION. The named operations over memory and registers every stage is written with: bytes of a memory space, the
bit cursor, the pixel grid, the cache, the queue; error entry, ONE operation (spec 60_exceptions.md R176), and beside it START, the
only way a failed decode is left but for reset (R180); what a chunk's writes come to. -/

namespace Sys2Proof.Machine

/-! ### Bytes -/

/-- The byte at an address, if one has been written there. -/
def Memory.read : Memory → Nat → Option Byte
  | [], _ => none
  | (k, v) :: m, a => if k = a then some v else Memory.read m a

/-- Write one byte, keeping the addresses strictly rising. -/
def Memory.write : Memory → Nat → Byte → Memory
  | [], a, b => [(a, b)]
  | (k, v) :: m, a, b =>
    if a < k then (a, b) :: (k, v) :: m
    else if a = k then (a, b) :: m
    else (k, v) :: Memory.write m a b

/-- Write consecutive bytes, the first at `a`. -/
def Memory.writeBytes : Memory → Nat → List Byte → Memory
  | m, _, [] => m
  | m, a, b :: bs => Memory.writeBytes (Memory.write m a b) (a + 1) bs

/-- `n` consecutive bytes from `a`, if all of them have been written. -/
def Memory.bytes (m : Memory) (a : Nat) : Nat → Option (List Byte)
  | 0 => some []
  | n + 1 =>
    match Memory.read m a, Memory.bytes m (a + 1) n with
    | some b, some bs => some (b :: bs)
    | _, _ => none

/-- Bytes as one unsigned big-endian number on top of `acc` (00_scope.md R8 MemRead, 20_memory.md R49). -/
def beNat (acc : Nat) : List Byte → Nat
  | [] => acc
  | b :: bs => beNat (256 * acc + b.toNat) bs

/-- The first address of `n` from `a` that holds no byte; `a + n` if there is none. -/
def Memory.firstUnwritten (m : Memory) (a : Nat) : Nat → Nat
  | 0 => a
  | n + 1 =>
    match Memory.read m a with
    | none => a
    | some _ => Memory.firstUnwritten m (a + 1) n

/-- `MemRead(addr, n)` on IBUF: n bytes as one big-endian number (R8). The callers compare with BUF_LEN first
(20_memory.md R42); a byte nothing has written is a fault (log 5). -/
def State.memRead (s : State) (addr n : Nat) : Except Fault Nat :=
  match Memory.bytes s.ibuf addr n with
  | some bs => .ok (beNat 0 bs)
  | none => .error (.ibufUnwritten (Memory.firstUnwritten s.ibuf addr n))

/-! ### The bit cursor -/

/-- BITPOS = 8 * BYTE_IDX + BIT_OFF, the `pc` (10_state.md R14). -/
def State.bitPos (s : State) : Nat := 8 * s.byteIdx + s.bitOff.toNat

/-- REM_BITS = 8 * BUF_LEN - BITPOS (R14). -/
def State.remBits (s : State) : Nat := 8 * s.bufLen - s.bitPos

/-- Stream bit number `p`: bit 7 - (p % 8) of IBUF[p / 8] (41_chunk_parser.md R91). -/
def State.streamBit (s : State) (p : Nat) : Except Fault Bool :=
  match Memory.read s.ibuf (p / 8) with
  | some b => .ok (b.getLsbD (7 - p % 8))
  | none => .error (.ibufUnwritten (p / 8))

/-- `n` stream bits from position `p`, in order: what PeekBits reads (R91). -/
def State.streamBits (s : State) (p : Nat) : Nat → Except Fault (List Bool)
  | 0 => .ok []
  | n + 1 =>
    match s.streamBit p with
    | .error f => .error f
    | .ok b =>
      match s.streamBits (p + 1) n with
      | .error f => .error f
      | .ok bs => .ok (b :: bs)

/-- `pc <- pc + k`: BYTE_IDX <- (BITPOS + k) / 8 and BIT_OFF <- (BITPOS + k) % 8 (41_chunk_parser.md R92). -/
def State.advancePc (s : State) (k : Nat) : State :=
  { s with byteIdx := (s.bitPos + k) / 8, bitOff := BitVec.ofNat 3 ((s.bitPos + k) % 8) }

/-! ### Queue -/

/-- Q_LEN, the number of records pushed (10_state.md R18). -/
def State.qLen (s : State) : Nat := s.q.length

/-- `Q.push(c)` (00_scope.md R8). -/
def State.pushChunk (s : State) (i : Instr) : State := { s with q := s.q ++ [i] }

/-- `Q_RD <- Q_RD + 1` (42_engine_common.md R114). -/
def State.advanceQ (s : State) : State := { s with qRd := s.qRd + 1 }

/-! ### Grid, cache, previous pixel -/

/-- NPIX = WIDTH * HEIGHT in 64 bits, which cannot overflow (10_state.md R12). -/
def State.npix (s : State) : BitVec 64 := s.width.zeroExtend 64 * s.height.zeroExtend 64

/-- The overrun test: no room for a pixel write (42_engine_common.md R111). -/
def State.full (s : State) : Bool := decide (s.npix ≤ s.cursor)

/-- The byte address of the entry at (row, col): linear position row * WIDTH + col, four bytes each (20_memory.md R43, R47). -/
def State.entryAddr (s : State) (row col : Nat) : Nat := 4 * (row * s.width.toNat + col)

/-- The byte address GridWrite(c, px) stores at: row = c / WIDTH, col = c % WIDTH (42_engine_common.md R113). -/
def State.pixelAddr (s : State) (c : Nat) : Nat := s.entryAddr (c / s.width.toNat) (c % s.width.toNat)

/-- A pixel's bytes in the order r, g, b, a (20_memory.md R47). -/
def pixelBytes (px : Pixel) : List Byte := [px.r, px.g, px.b, px.a]

/-- The pixel whose bytes start at `a`, if all four have been written. -/
def Memory.pixelAt (m : Memory) (a : Nat) : Option Pixel :=
  match Memory.read m a, Memory.read m (a + 1), Memory.read m (a + 2), Memory.read m (a + 3) with
  | some r, some g, some b, some al => some { r := r, g := g, b := b, a := al }
  | _, _, _, _ => none

/-- `GridWrite(c, px)` (00_scope.md R8, 42_engine_common.md R113). -/
def State.gridWrite (s : State) (c : Nat) (px : Pixel) : State :=
  { s with grid := Memory.writeBytes s.grid (s.pixelAddr c) (pixelBytes px) }

/-- `CURSOR <- CURSOR + 1` (R112). -/
def State.advanceCursor (s : State) : State := { s with cursor := s.cursor + 1 }

/-- `CACHE[i] <- px` (00_scope.md R8). -/
def State.setCache (s : State) (i : BitVec 6) (px : Pixel) : State :=
  { s with cache := s.cache.set i.toNat px i.isLt }

/-- `PREV <- px`. -/
def State.setPrev (s : State) (px : Pixel) : State := { s with prev := px }

/-- `RUN_REM <- n` (46_chunk_run.md R150). -/
def State.setRunRem (s : State) (n : Nat) : State := { s with runRem := BitVec.ofNat 7 n }

/-- `PHASE <- p`. -/
def State.setPhase (s : State) (p : Phase) : State := { s with phase := p }

/-- The host's moves still to come. -/
def State.setInputs (s : State) (ms : List HostMove) : State := { s with inputs := ms }

/-- `BUF_LEN <- n`, a host write (10_state.md R22). -/
def State.setBufLen (s : State) (n : Nat) : State := { s with bufLen := n }

/-- A byte of IBUF, written by the host (20_memory.md R40). -/
def State.storeInput (s : State) (a : Nat) (b : Byte) : State := { s with ibuf := Memory.write s.ibuf a b }

/-! ### Errors, START, reset, the end of a decode -/

/-- `raise K`, error entry: "ERR.CODE <- code(K); PHASE <- ERROR; the current step makes no other state change"
(60_exceptions.md R176). There is no return from it but START or reset (R180). -/
def State.raise (s : State) (k : ErrKind) : State := { s with err := k, phase := .error }

/-- What an accepted START does, in one step (48_host_commands_and_sequence.md R160; 10_state.md R30). "The previous
decode's GRID contents and header registers become undefined": the grid lists nothing, so its entries hold no value (log
6), and the header registers hold free values (log 7). -/
def State.start (s : State) : State :=
  { s with
    err := .noError
    prev := Pixel.prevInit
    cache := Vector.replicate 64 Pixel.blank
    cursor := 0
    runRem := 0
    q := []
    qRd := 0
    byteIdx := 0
    bitOff := 0
    phase := .hdr
    grid := []
    width := Config.freeWidth s.freeCtr
    height := Config.freeHeight s.freeCtr
    channels := Config.freeChannels s.freeCtr
    colorspace := Config.freeColorspace s.freeCtr
    freeCtr := s.freeCtr + 1 }

/-- Hardware reset as an event (70_reset_and_hazards.md R190, R192): any decode in progress is abandoned. Every value R190
leaves unspecified is the one `State.reset` names (log 21); the model's own fields go on. -/
def State.hardReset (s : State) : State :=
  { State.reset with inputs := s.inputs, freeCtr := s.freeCtr }

/-- "After PHASE becomes DONE or ERROR the values of PREV, CACHE, CURSOR, Q and the bit cursor are unspecified"
(10_state.md R31): each holds a free value (log 8). GRID, the header registers, PHASE and ERR.CODE keep theirs
(48_host_commands_and_sequence.md R161: DONE and ERROR are stable). -/
def State.discard (s : State) : State :=
  { s with
    prev := Config.freePrev s.freeCtr
    cache := Config.freeCache s.freeCtr
    cursor := Config.freeCursor s.freeCtr
    q := Config.freeQueue s.freeCtr
    qRd := Config.freeQRd s.freeCtr
    byteIdx := Config.freeByteIdx s.freeCtr
    bitOff := Config.freeBitOff s.freeCtr
    freeCtr := s.freeCtr + 1 }

/-! ### What a chunk's writes come to -/

/-- The writes of one chunk: all made, or one of them found no room after those before it. -/
inductive Writes where
  | ok (s : State)
  | failed (k : ErrKind) (s : State)
  deriving DecidableEq, Repr

/-- `emit(new, update_cache)`: check_room; write at the cursor; CURSOR + 1; the cache slot hash(new) if asked; PREV <-
new (42_engine_common.md R112). If there is no room none of the four happens. -/
def emit (new : Pixel) (updateCache : Bool) (s : State) : Writes :=
  if s.full then .failed .bufferOverrun s
  else
    let s1 := (s.gridWrite s.cursor.toNat new).advanceCursor
    let s2 := if updateCache then s1.setCache (pixelHash new) new else s1
    .ok (s2.setPrev new)

/-- RUN's loop with `n` writes still to do, RUN_REM = n (46_chunk_run.md R150): each iteration checks the room, writes
PREV at the cursor, advances the cursor and counts down. -/
def runWrites : Nat → State → Writes
  | 0, s => .ok s
  | n + 1, s =>
    if s.full then .failed .bufferOverrun s
    else runWrites n (((s.gridWrite s.cursor.toNat s.prev).advanceCursor).setRunRem n)

/-- The end of one iteration of the engine loop: Q_RD + 1, or error entry with Q_RD left (42_engine_common.md R114). -/
def Writes.settle : Writes → Host.Outcome State Fault Refusal
  | .ok s => .next s.advanceQ
  | .failed k s => .next (s.raise k)

end Sys2Proof.Machine
end

