-- ==== Sys2Proof/Machine/Delta.lean ====
section
/-! DEFINITION. The delta chunks DIFF and LUMA (spec 45_chunks_diff_luma.md). -/

namespace Sys2Proof.Machine

/-- DIFF{dr, dg, db} (R140): each colour channel of PREV plus its stored delta less 2, modulo 256; emitted with cache update. -/
def execDiff (dr dg db : BitVec 2) (s : State) : Host.Outcome State Fault Refusal :=
  (emit (diffPixel s.prev dr dg db) true s).settle

/-- LUMA{dg, dr_dg, db_dg} (R141): PREV plus the green delta, and red and blue deltas relative to it, modulo 256; emitted
with cache update. -/
def execLuma (dg : BitVec 6) (drDg dbDg : BitVec 4) (s : State) : Host.Outcome State Fault Refusal :=
  (emit (lumaPixel s.prev dg drDg dbDg) true s).settle

end Sys2Proof.Machine
end

