-- ==== Sys2Proof/Machine/Index.lean ====
section
/-! DEFINITION. The cache back-reference chunk INDEX (spec 44_chunk_index.md). -/

namespace Sys2Proof.Machine

/-- INDEX{index} (R135): new = CACHE[index] verbatim, emitted WITHOUT cache update; an unwritten slot is no error (R136). -/
def execIndex (slot : BitVec 6) (s : State) : Host.Outcome State Fault Refusal :=
  (emit (indexPixel s.cache slot) false s).settle

end Sys2Proof.Machine
end

