-- ==== Sys2Proof/Machine/Literal.lean ====
section
/-! DEFINITION. The literal chunks RGB and RGBA (spec 43_chunks_rgb_rgba.md). -/

namespace Sys2Proof.Machine

/-- RGB{r, g, b} (R130): new = (r, g, b, PREV.a), emitted with cache update. -/
def execRgb (r g b : Byte) (s : State) : Host.Outcome State Fault Refusal :=
  (emit (rgbPixel s.prev r g b) true s).settle

/-- RGBA{r, g, b, a} (R131): new = (r, g, b, a), emitted with cache update; PREV is not read. -/
def execRgba (r g b a : Byte) (s : State) : Host.Outcome State Fault Refusal :=
  (emit (rgbaPixel r g b a) true s).settle

end Sys2Proof.Machine
end

