-- ==== Sys2Proof/Machine/Run.lean ====
section
/-! DEFINITION. The run-length chunk RUN (spec 46_chunk_run.md). One step runs the whole chunk (10_state.md R20, decision D21). -/

namespace Sys2Proof.Machine

/-- RUN{run} (R150): RUN_REM <- run + 1, then that many writes of PREV at the cursor; PREV and CACHE are unchanged. All 64
stored values have this meaning (R152 f). -/
def execRun (run : BitVec 6) (s : State) : Host.Outcome State Fault Refusal :=
  (runWrites (runLength run) (s.setRunRem (runLength run))).settle

end Sys2Proof.Machine
end

