-- ==== Sys2Proof/Machine/Header.lean ====
section
/-! DEFINITION. The header stage (spec 40_header_stage.md R80 to R86), one step. -/

namespace Sys2Proof.Machine

/-- The header record's four loaded fields (30_encoding.md R60). -/
structure Header where
  width : BitVec 32
  height : BitVec 32
  channels : Byte
  colorspace : Byte
  deriving DecidableEq, Repr

/-- The four big-endian field reads (R83). -/
def State.readHeader (s : State) : Except Fault Header :=
  match s.memRead 4 4 with
  | .error f => .error f
  | .ok w =>
    match s.memRead 8 4 with
    | .error f => .error f
    | .ok h =>
      match s.memRead 12 1 with
      | .error f => .error f
      | .ok c =>
        match s.memRead 13 1 with
        | .error f => .error f
        | .ok cs =>
          .ok { width := BitVec.ofNat 32 w, height := BitVec.ofNat 32 h,
                channels := BitVec.ofNat 8 c, colorspace := BitVec.ofNat 8 cs }

/-- The field load and the hand-off to the parser (R83, R84). No field is checked (decision D8). -/
def State.loadHeader (s : State) (h : Header) : State :=
  { s with
    width := h.width
    height := h.height
    channels := h.channels
    colorspace := h.colorspace
    byteIdx := Config.hdrLen
    bitOff := 0
    phase := .parse }

/-- The whole stage (R85): the signature is checked before the length (decision D7). A header that gives NPIX > GRID_CAP is
outside the spec and refused (20_memory.md R43). -/
def headerStage (p : Params) (s : State) : Host.Outcome State Fault Refusal :=
  if s.bufLen < Config.sigLen then .next (s.raise .truncated)
  else
    match s.memRead 0 Config.sigLen with
    | .error f => .fault f
    | .ok sig =>
      if sig ≠ p.sig.toNat then .next (s.raise .badSignature)
      else if s.bufLen < Config.hdrLen then .next (s.raise .truncated)
      else
        match s.readHeader with
        | .error f => .fault f
        | .ok h =>
          if p.gridCap < (s.loadHeader h).npix.toNat then .refused .launchOverGridCap
          else .next (s.loadHeader h)

end Sys2Proof.Machine
end

