-- ==== Sys2Proof/Machine/HostIf.lean ====
section
/-! DEFINITION. The host interface (spec 10_state.md R22 to R27, 20_memory.md R46, R47, 48_host_commands_and_sequence.md
R160, R166): register reads and writes, loading IBUF, START, reset, reading the grid. -/

namespace Sys2Proof.Machine

/-- A host read of register `k`: CTRL and every number not listed read as 0; no private state is readable (R23, R27). -/
def readReg (s : State) (k : Nat) : Nat :=
  match k with
  | 0 => 0
  | 1 => (statusWord s).toNat
  | 2 => (errWord s).toNat
  | 3 => s.bufLen
  | 4 => s.width.toNat
  | 5 => s.height.toNat
  | 6 => s.channels.toNat
  | 7 => s.colorspace.toNat
  | _ => 0

/-- Writing 1 to CTRL.START: accepted in IDLE, DONE and ERROR, ignored while busy (R160). With BUF_LEN above IBUF_CAP the
launch is outside the spec's premises and refused (70_reset_and_hazards.md R194). -/
def hostStart (p : Params) (s : State) : Host.Outcome State Fault Refusal :=
  if busy s then .next s
  else if p.ibufCap < s.bufLen then .refused .launchOverIbufCap
  else .next s.start

/-- Writing BUF_LEN: ignored while busy and above IBUF_CAP (R22). -/
def hostWriteBufLen (p : Params) (v : Nat) (s : State) : State :=
  if busy s then s
  else if p.ibufCap < v then s
  else s.setBufLen v

/-- A host write of register `k`. CTRL looks at bit 0 alone (R23); the read-only registers and the numbers not
listed ignore it (R27), log 14. -/
def hostWriteReg (p : Params) (k v : Nat) (s : State) : Host.Outcome State Fault Refusal :=
  match k with
  | 0 => if v.testBit 0 then hostStart p s else .next s
  | 3 => .next (hostWriteBufLen p v s)
  | _ => .next s

/-- The host writes a byte of IBUF: never while busy (70_reset_and_hazards.md R196), and only below IBUF_CAP. -/
def hostLoadByte (p : Params) (a : Nat) (b : Byte) (s : State) : Host.Outcome State Fault Refusal :=
  if busy s then .refused .ibufWriteWhileBusy
  else if p.ibufCap ≤ a then .fault (.ibufOutOfRange a)
  else .next (s.storeInput a b)

/-- A host read of the grid entry at (row, col): refused outside DONE (20_memory.md R46), a fault at an entry that does not
exist (R43). -/
def readGrid (s : State) (row col : Nat) : Host.Outcome Pixel Fault Refusal :=
  if s.phase ≠ .done then .refused .gridNotReadable
  else if row < s.height.toNat ∧ col < s.width.toNat then
    match Memory.pixelAt s.grid (s.entryAddr row col) with
    | some px => .next px
    | none => .fault .gridUnwritten
  else .fault .gridOutOfRange

/-- A host read of one byte of the grid's byte view (R47), under the same conditions. -/
def readGridByte (s : State) (a : Nat) : Host.Outcome Byte Fault Refusal :=
  if s.phase ≠ .done then .refused .gridNotReadable
  else if a < 4 * s.npix.toNat then
    match Memory.read s.grid a with
    | some b => .next b
    | none => .fault .gridUnwritten
  else .fault .gridOutOfRange

/-- The host can be sure that the header registers hold this decode's header (10_state.md R11, decision D26). -/
def headerSure (s : State) : Bool :=
  match s.phase with
  | .idle => false
  | .hdr => false
  | .parse => true
  | .recon => true
  | .done => true
  | .error => decide (s.err = .bufferOverrun) || decide (s.err = .incompleteImage)

end Sys2Proof.Machine
end

