-- ==== Sys2Proof/WellFormed.lean ====
section
/-! DEFINITION. Which chunk records a stream can express (spec 30_encoding.md R67, R73): every record has an encoding
except Run 62 and Run 63, whose would-be bytes 0xFE and 0xFF are the RGB and RGBA tags. The engine gives those two records a meaning all
the same (46_chunk_run.md R152 f), so the machine never asks for this check. -/

namespace Sys2Proof

/-- The record has a byte encoding (R73). -/
def Instr.encodable : Instr → Bool
  | .rgb _ _ _ => true
  | .rgba _ _ _ _ => true
  | .index _ => true
  | .diff _ _ _ => true
  | .luma _ _ _ => true
  | .run n => decide (n.toNat < 62)

/-- A well-formed instruction is one the stream can express (R73). -/
abbrev Instr.WellFormed (i : Instr) : Prop := i.encodable = true

end Sys2Proof
end

