-- ==== Sys2Proof/Decode.lean ====
section
/-! DEFINITION. The chunk decoder over the stream's bits (spec 30_encoding.md R61 to R70, 41_chunk_parser.md R91 to
R100), total on any bits, refusing by name; and the encoder, written from the same tables (R73). The byte-wise form of R102 is
a second, independent definition (`Machine.parseBytes`), so that the two can be held against each other. -/

namespace Sys2Proof

/-- Why bits are no chunk: the two errors a parse can raise (41_chunk_parser.md R93, R100). -/
inductive DecodeError where
  | truncated
  | unknownChunkTag
  deriving DecidableEq, Repr

/-! ### Bits of the stream -/

/-- The bits of a byte in the order the stream consumes them, bit 7 first (00_scope.md R6). -/
def byteBits (b : Byte) : List Bool :=
  [b.getLsbD 7, b.getLsbD 6, b.getLsbD 5, b.getLsbD 4, b.getLsbD 3, b.getLsbD 2, b.getLsbD 1, b.getLsbD 0]

/-- The bits of consecutive bytes. -/
def bytesBits : List Byte → List Bool
  | [] => []
  | b :: bs => byteBits b ++ bytesBits bs

/-- Bits read as an unsigned number, the first one most significant (R6), on top of what `acc` already holds. -/
def bitsNat (acc : Nat) : List Bool → Nat
  | [] => acc
  | b :: bs => bitsNat (2 * acc + b.toNat) bs

/-- A k-bit field: the value `TakeBits(k)` returns when the next bits are `bs` (41_chunk_parser.md R91, R92). -/
def field (k : Nat) (bs : List Bool) : BitVec k := BitVec.ofNat k (bitsNat 0 (bs.take k))

/-! ### Dispatch and length -/

/-- The dispatch order: the two full-byte tags first, then the four 2-bit tags (30_encoding.md R68). The last arm is
the defensive one that no byte reaches (41_chunk_parser.md R100). -/
def kindOf (b0 : Byte) : Option ChunkKind :=
  if b0 = Config.tagRgb then some .rgb
  else if b0 = Config.tagRgba then some .rgba
  else if b0.extractLsb' 6 2 = (0b00 : BitVec 2) then some .index
  else if b0.extractLsb' 6 2 = (0b01 : BitVec 2) then some .diff
  else if b0.extractLsb' 6 2 = (0b10 : BitVec 2) then some .luma
  else if b0.extractLsb' 6 2 = (0b11 : BitVec 2) then some .run
  else none

/-- need(kind): the chunk's total field width in bits (41_chunk_parser.md R93). -/
def ChunkKind.need : ChunkKind → Nat
  | .rgb => 32
  | .rgba => 40
  | .index => 8
  | .diff => 8
  | .luma => 16
  | .run => 8

/-- Cut the fields of a chunk of a known kind from its bits: the TakeBits sequences of 41_chunk_parser.md R94 to R99. -/
def takeFields (k : ChunkKind) (bs : List Bool) : Instr :=
  match k with
  | .rgb => .rgb (field 8 (bs.drop 8)) (field 8 (bs.drop 16)) (field 8 (bs.drop 24))
  | .rgba => .rgba (field 8 (bs.drop 8)) (field 8 (bs.drop 16)) (field 8 (bs.drop 24)) (field 8 (bs.drop 32))
  | .index => .index (field 6 (bs.drop 2))
  | .diff => .diff (field 2 (bs.drop 2)) (field 2 (bs.drop 4)) (field 2 (bs.drop 6))
  | .luma => .luma (field 6 (bs.drop 2)) (field 4 (bs.drop 8)) (field 4 (bs.drop 12))
  | .run => .run (field 6 (bs.drop 2))

/-- One chunk from the front of the stream's bits, with the bits behind it. The kind comes from the first byte alone, and
Truncated before any field is taken (R93). DEDUCED: fewer than 8 bits are fewer than any kind needs, so they
are Truncated too (log 11). -/
def decodeBits (bs : List Bool) : Except DecodeError (Instr × List Bool) :=
  if bs.length < 8 then .error .truncated
  else
    match kindOf (field 8 bs) with
    | none => .error .unknownChunkTag
    | some k => if bs.length < k.need then .error .truncated else .ok (takeFields k bs, bs.drop k.need)

/-- One chunk from the front of a byte list, with the bytes behind it: every chunk is a whole number of bytes (R61). -/
def decode (bytes : List Byte) : Except DecodeError (Instr × List Byte) :=
  match decodeBits (bytesBits bytes) with
  | .error e => .error e
  | .ok (i, _) => .ok (i, bytes.drop (i.kind.need / 8))

/-! ### Encoding -/

/-- The bytes of a chunk record (R62 to R67, R73). For Run 62 and Run 63, which have no encoding, it gives the would-be
byte, and nothing is claimed of it. -/
def encode : Instr → List Byte
  | .rgb r g b => [Config.tagRgb, r, g, b]
  | .rgba r g b a => [Config.tagRgba, r, g, b, a]
  | .index i => [(0b00 : BitVec 2) ++ i]
  | .diff dr dg db => [(0b01 : BitVec 2) ++ dr ++ dg ++ db]
  | .luma dg drDg dbDg => [(0b10 : BitVec 2) ++ dg, drDg ++ dbDg]
  | .run n => [(0b11 : BitVec 2) ++ n]

/-! ### The opcode table's words -/

/-- The `n` bytes of a table word, byte 0 of the chunk in its most significant byte (00_scope.md R6: "byte 0 of the
chunk in W's most significant byte; this is the view the opcode table uses"), log 20. -/
def wordBytes : Nat → Nat → List Byte
  | 0, _ => []
  | n + 1, w => BitVec.ofNat 8 (w / 256 ^ n) :: wordBytes n w

/-- The longest chunk in bytes (RGBA, R61). -/
def maxChunkBytes : Nat := 5

/-- A table word's bytes in stream order, and zeros behind them up to the longest chunk. -/
def tableBytes (nbits w : Nat) : List Byte :=
  wordBytes ((nbits + 7) / 8) w ++ List.replicate (maxChunkBytes - (nbits + 7) / 8) 0

/-- The instruction the decoder reads from a word of opcode_table.json. -/
def decodeTableWord (nbits w : Nat) : Option Instr :=
  match decode (tableBytes nbits w) with
  | .error _ => none
  | .ok (i, _) => some i

end Sys2Proof
end

