-- ==== Sys2Proof/Machine/Parser.lean ====
section
/-! DEFINITION. One step of the chunk parser (spec 41_chunk_parser.md R90 to R104): the bits of one chunk at the bit
cursor, through the decoder, into the queue. -/

namespace Sys2Proof.Machine

/-- The error kind a refused parse raises (R93, R100). -/
def decodeErrKind : DecodeError → ErrKind
  | .truncated => .truncated
  | .unknownChunkTag => .unknownChunkTag

/-- The stream bits the decoder is given: the first byte (PeekBits(8), R91) and, if the chunk it begins is whole in the
stream, all the chunk's bits. Nothing at or above BUF_LEN is read (20_memory.md R42). -/
def State.chunkWindow (s : State) : Except Fault (List Bool) :=
  match s.streamBits s.bitPos (min 8 s.remBits) with
  | .error f => .error f
  | .ok head =>
    match kindOf (field 8 head) with
    | none => .ok head
    | some k => if s.remBits < k.need then .ok head else s.streamBits s.bitPos k.need

/-- The chunk is pushed and `pc` moved past it (R94 to R99); with the stream exhausted, PHASE <- RECON in the same step
(R101; 48_host_commands_and_sequence.md R161, R162), log 1. -/
def State.acceptChunk (s : State) (i : Instr) : State :=
  let t := (s.pushChunk i).advancePc i.kind.need
  if t.remBits = 0 then t.setPhase .recon else t

/-- One iteration of the parser's loop, with bits left (R101). A refused chunk raises its error and leaves Q and the cursor
alone (R93). -/
def parseStep (s : State) : Host.Outcome State Fault Refusal :=
  match s.chunkWindow with
  | .error f => .fault f
  | .ok bits =>
    match decodeBits bits with
    | .error e => .next (s.raise (decodeErrKind e))
    | .ok (i, _) => .next (s.acceptChunk i)

end Sys2Proof.Machine
end

