-- ==== Sys2Proof/Machine/Sequencer.lean ====
section
/-! DEFINITION. The phase machine (spec 48_host_commands_and_sequence.md R161, R162): what one step does in each phase, and
which of the two agents, core or host, takes it (log 2). -/

namespace Sys2Proof.Machine

/-- The termination test (42_engine_common.md R115). -/
def terminationTest (s : State) : Host.Outcome State Fault Refusal :=
  if s.cursor = s.npix then .next (s.setPhase .done) else .next (s.raise .incompleteImage)

/-- One engine step: the chunk at Q_RD, or the termination test behind the last one (R114). -/
def reconStep (s : State) : Host.Outcome State Fault Refusal :=
  match s.q[s.qRd]? with
  | some i => exec i s
  | none => terminationTest s

/-- One step in PARSE: the next chunk while bits are left. Finding the stream exhausted is no step of its own (R162): PHASE <-
RECON, and the same step is the engine's. So an empty stream goes from PARSE through RECON in the step of the termination
test (41_chunk_parser.md R101), log 1. -/
def parseStage (s : State) : Host.Outcome State Fault Refusal :=
  if s.remBits = 0 then reconStep (s.setPhase .recon) else parseStep s

/-- One step of the core. In IDLE it does nothing (70_reset_and_hazards.md R191); in DONE and ERROR it does nothing the host
can see, and the private registers are discarded (10_state.md R31, log 8). -/
def coreStep (p : Params) (s : State) : Host.Outcome State Fault Refusal :=
  match s.phase with
  | .idle => .next s
  | .hdr => headerStage p s
  | .parse => parseStage s
  | .recon => reconStep s
  | .done => .next s.discard
  | .error => .next s.discard

/-- The host's next move, landing between two core steps; `tick` lets the core take its step. -/
def takeMove (p : Params) (m : HostMove) (s : State) : Host.Outcome State Fault Refusal :=
  match m with
  | .tick => coreStep p s
  | .loadByte a b => hostLoadByte p a b s
  | .writeReg k v => hostWriteReg p k v s
  | .reset => .next s.hardReset

/-- One step of the machine: the host's next move if one is due, else the core's (log 2). -/
def stepWith (p : Params) (s : State) : Host.Outcome State Fault Refusal :=
  match s.inputs with
  | [] => coreStep p s
  | m :: ms => takeMove p m (s.setInputs ms)

/-- `k` steps, stopping at the first fault or refusal. -/
def runWith (p : Params) : Nat → State → Host.Outcome State Fault Refusal
  | 0, s => .next s
  | k + 1, s =>
    match stepWith p s with
    | .next t => runWith p k t
    | .fault f => .fault f
    | .refused r => .refused r

end Sys2Proof.Machine
end

