-- ==== Sys2Proof/Machine/Step.lean ====
section
/-! DEFINITION. The one step of the machine, and the placing of one instruction where the next step runs it (log 19). -/

namespace Sys2Proof.Machine

/-- One step, with the parameters at `Config.params` (log 3). -/
def step (s : State) : Host.Outcome State Fault Refusal := stepWith Config.params s

/-- The bytes of the header `withFetchWord` loads: SIG, WIDTH 64, HEIGHT 1, CHANNELS 4, COLORSPACE 0. -/
def fetchHeader : List Byte := wordBytes 4 Config.sigDefault.toNat ++ [0, 0, 0, 64, 0, 0, 0, 1, 4, 0]

/-- The state in which the very next step runs the instruction the decoder reads from the table word: what a load of a
one-chunk image of 64 by 1 pixels, START, the header stage and the parser's step leave. The engine fetches from Q at
Q_RD, so the record stands there; the image gives it room to write; PREV, CACHE and GRID are as before (log 19). -/
def State.withFetchWord (s : State) (nbits w : Nat) : State :=
  match decodeTableWord nbits w with
  | none => { s with q := [], qRd := 0, phase := .recon, err := .noError, inputs := [] }
  | some i =>
    { s with
      ibuf := Memory.writeBytes s.ibuf 0 (fetchHeader ++ tableBytes nbits w)
      bufLen := Config.hdrLen + i.kind.need / 8
      width := 64
      height := 1
      channels := 4
      colorspace := 0
      byteIdx := Config.hdrLen + i.kind.need / 8
      bitOff := 0
      q := [i]
      qRd := 0
      cursor := 0
      phase := .recon
      err := .noError
      inputs := [] }

end Sys2Proof.Machine
end

