-- ==== Sys2Proof/Machine/WholeDecode.lean ====
section
/-! DEFINITION. The whole decode as a function of the buffer, "the object most claims should be stated about" (spec
48_host_commands_and_sequence.md R164), built from the spec's DERIVED forms only: the byte-wise parser (41_chunk_parser.md
R102), the closed delta forms (45_chunks_diff_luma.md R142), the wide hash (47_cache_hash.md R156) and the one-step RUN
(46_chunk_run.md R151). The phase machine uses none of it, so the two can be held against each other. -/

namespace Sys2Proof.Machine

/-- `parse_header` (40_header_stage.md R80, R85): the header and the remaining bytes, or the error. -/
def parseHeader (sig : BitVec 32) (buf : List Byte) : Except ErrKind (Header × List Byte) :=
  if buf.length < 4 then .error .truncated
  else if beNat 0 (buf.take 4) ≠ sig.toNat then .error .badSignature
  else if buf.length < 14 then .error .truncated
  else
    .ok ({ width := BitVec.ofNat 32 (beNat 0 ((buf.drop 4).take 4)),
           height := BitVec.ofNat 32 (beNat 0 ((buf.drop 8).take 4)),
           channels := BitVec.ofNat 8 (beNat 0 ((buf.drop 12).take 1)),
           colorspace := BitVec.ofNat 8 (beNat 0 ((buf.drop 13).take 1)) }, buf.drop 14)

/-- Put a chunk in front of what the rest of the stream parses to. -/
def consChunk (i : Instr) : Except ErrKind (List Instr) → Except ErrKind (List Instr)
  | .error e => .error e
  | .ok is => .ok (i :: is)

/-- `parse_chunks`, the byte-wise equivalent of the parser stage (41_chunk_parser.md R102). -/
def parseBytes : List Byte → Except ErrKind (List Instr)
  | [] => .ok []
  | b0 :: rest =>
    if b0 = 0xFE then
      match rest with
      | r :: g :: b :: rest' => consChunk (.rgb r g b) (parseBytes rest')
      | _ => .error .truncated
    else if b0 = 0xFF then
      match rest with
      | r :: g :: b :: a :: rest' => consChunk (.rgba r g b a) (parseBytes rest')
      | _ => .error .truncated
    else if b0.toNat < 0x40 then consChunk (.index (b0.extractLsb' 0 6)) (parseBytes rest)
    else if b0.toNat < 0x80 then
      consChunk (.diff (b0.extractLsb' 4 2) (b0.extractLsb' 2 2) (b0.extractLsb' 0 2)) (parseBytes rest)
    else if b0.toNat < 0xC0 then
      match rest with
      | b1 :: rest' =>
        consChunk (.luma (b0.extractLsb' 0 6) (b1.extractLsb' 4 4) (b1.extractLsb' 0 4)) (parseBytes rest')
      | _ => .error .truncated
    else consChunk (.run (b0.extractLsb' 0 6)) (parseBytes rest)
termination_by structural bytes => bytes

/-- The hash computed over the integers and reduced once (47_cache_hash.md R156). -/
def wideHash (px : Pixel) : Nat := (3 * px.r.toNat + 5 * px.g.toNat + 7 * px.b.toNat + 11 * px.a.toNat) % 64

/-- The engine's own state in a functional reading: the previous pixel, the cache, and the pixels written so far in
row-major order, whose number is the cursor (42_engine_common.md R110). -/
structure Engine where
  prev : Pixel
  cache : Nat → Pixel
  out : List Pixel

/-- The engine at the start of a decode (R110). -/
def Engine.init : Engine := { prev := ⟨0, 0, 0, 255⟩, cache := fun _ => ⟨0, 0, 0, 0⟩, out := [] }

/-- Emit one pixel into a grid of `npix` (R111, R112). -/
def Engine.emit (npix : Nat) (new : Pixel) (cached : Bool) (e : Engine) : Except ErrKind Engine :=
  if npix ≤ e.out.length then .error .bufferOverrun
  else
    .ok { prev := new,
          cache := if cached then fun k => if k = wideHash new then new else e.cache k else e.cache,
          out := e.out ++ [new] }

/-- One chunk (R119), deltas in the closed forms of R142 and RUN in the one-step form of R151. -/
def Engine.chunk (npix : Nat) (e : Engine) : Instr → Except ErrKind Engine
  | .rgb r g b => e.emit npix { r := r, g := g, b := b, a := e.prev.a } true
  | .rgba r g b a => e.emit npix { r := r, g := g, b := b, a := a } true
  | .index slot => e.emit npix (e.cache slot.toNat) false
  | .diff dr dg db =>
    e.emit npix { r := BitVec.ofInt 8 (e.prev.r.toNat + dr.toNat - 2),
                  g := BitVec.ofInt 8 (e.prev.g.toNat + dg.toNat - 2),
                  b := BitVec.ofInt 8 (e.prev.b.toNat + db.toNat - 2), a := e.prev.a } true
  | .luma dg drDg dbDg =>
    e.emit npix { r := BitVec.ofInt 8 (e.prev.r.toNat + dg.toNat + drDg.toNat - 40),
                  g := BitVec.ofInt 8 (e.prev.g.toNat + dg.toNat - 32),
                  b := BitVec.ofInt 8 (e.prev.b.toNat + dg.toNat + dbDg.toNat - 40), a := e.prev.a } true
  | .run n =>
    if n.toNat + 1 ≤ npix - e.out.length then
      .ok { e with out := e.out ++ List.replicate (n.toNat + 1) e.prev }
    else .error .bufferOverrun

/-- The chunks in order (42_engine_common.md R114). -/
def Engine.chunks (npix : Nat) (e : Engine) : List Instr → Except ErrKind Engine
  | [] => .ok e
  | i :: is =>
    match e.chunk npix i with
    | .error k => .error k
    | .ok e' => Engine.chunks npix e' is

/-- `reconstruct(header, chunks)`: the pixels of the grid in row-major order, or the error (R110, R115). -/
def reconstruct (h : Header) (is : List Instr) : Except ErrKind (List Pixel) :=
  match Engine.init.chunks (h.width.toNat * h.height.toNat) is with
  | .error k => .error k
  | .ok e => if e.out.length = h.width.toNat * h.height.toNat then .ok e.out else .error .incompleteImage

/-- `decode(buf)` (48_host_commands_and_sequence.md R164): the header and the pixels, or the one error. -/
def decodeBuffer (sig : BitVec 32) (buf : List Byte) : Except ErrKind (Header × List Pixel) :=
  match parseHeader sig buf with
  | .error k => .error k
  | .ok (h, rest) =>
    match parseBytes rest with
    | .error k => .error k
    | .ok is =>
      match reconstruct h is with
      | .error k => .error k
      | .ok pixels => .ok (h, pixels)

end Sys2Proof.Machine
end

