-- ==== Sys2Proof/Safety.lean ====
section
/-! DEFINITION. What claims are stated in: the premises of a launch (spec 70_reset_and_hazards.md R194), the invariant of
the phase machine, and the phase transitions of 48_host_commands_and_sequence.md R161. -/

namespace Sys2Proof.Safety

open Sys2Proof.Machine

/-- IBUF[0 .. BUF_LEN - 1] holds the buffer (20_memory.md R40). -/
def HoldsBuffer (s : State) (buf : List Byte) : Prop :=
  s.bufLen = buf.length ∧ Memory.bytes s.ibuf 0 buf.length = some buf

/-- The launch premises of R194 that concern the state: PHASE is IDLE, DONE or ERROR, BUF_LEN <= IBUF_CAP, and IBUF holds
what the host wrote. -/
def Launch (p : Params) (s : State) (buf : List Byte) : Prop :=
  busy s = false ∧ s.bufLen ≤ p.ibufCap ∧ HoldsBuffer s buf

/-- The launch premise that concerns the header: if it is valid, NPIX <= GRID_CAP (R194). -/
def GridFits (p : Params) (buf : List Byte) : Prop :=
  ∀ h rest, parseHeader p.sig buf = .ok (h, rest) → h.width.toNat * h.height.toNat ≤ p.gridCap

/-- Every slot i holds (0,0,0,0) or a pixel whose hash is i (10_state.md R16). -/
def CacheKeyed (s : State) : Prop :=
  ∀ i : BitVec 6, indexPixel s.cache i = Pixel.blank ∨ pixelHash (indexPixel s.cache i) = i

/-- The reconstruction registers as START leaves them (10_state.md R30), the queue apart. -/
def EngineFresh (s : State) : Prop :=
  s.prev = Pixel.prevInit ∧ s.cache = Vector.replicate 64 Pixel.blank ∧ s.cursor = 0 ∧ s.runRem = 0 ∧ s.qRd = 0 ∧
  s.grid = []

/-- What an emitting chunk leaves: the pixel at the cursor's (row, col) and every other byte of the grid as it was, the
cursor one further, PREV the new pixel, Q_RD one further, and nothing else changed but, if the chunk writes it, CACHE (R112,
R114). -/
def Emitted (s t : State) (new : Pixel) : Prop :=
  Memory.pixelAt t.grid
      (s.entryAddr (s.cursor.toNat / s.width.toNat) (s.cursor.toNat % s.width.toNat)) = some new ∧
  (∀ a, (a < s.pixelAddr s.cursor.toNat ∨ s.pixelAddr s.cursor.toNat + 4 ≤ a) →
    Memory.read t.grid a = Memory.read s.grid a) ∧
  t.cursor.toNat = s.cursor.toNat + 1 ∧
  t = { s with grid := t.grid, cursor := t.cursor, cache := t.cache, prev := new, qRd := s.qRd + 1 }

/-- The cache with slot hash(new) written, and no other (R112, R155). -/
def CachedAt (s t : State) (new : Pixel) : Prop :=
  indexPixel t.cache (pixelHash new) = new ∧ ∀ k : BitVec 6, k ≠ pixelHash new → indexPixel t.cache k = indexPixel s.cache k

/-- Exactly the first `n` grid entries in row-major order have been written. -/
def GridFilled (s : State) (n : Nat) : Prop := ∀ a, (Memory.read s.grid a).isSome = true ↔ a < 4 * n

/-- What holds in the phase the machine is in. In IDLE and ERROR, and of the private registers in DONE, nothing: those
values are unspecified (R30, R31). -/
def PhaseInv (p : Params) (s : State) : Prop :=
  match s.phase with
  | .idle => True
  | .hdr => EngineFresh s ∧ s.q = [] ∧ s.byteIdx = 0 ∧ s.bitOff = 0
  | .parse =>
    EngineFresh s ∧ s.bitOff = 0 ∧ 14 ≤ s.byteIdx ∧ s.byteIdx ≤ s.bufLen ∧ s.q.length + 14 ≤ s.byteIdx ∧
    (∀ i ∈ s.q, i.WellFormed) ∧ s.npix.toNat ≤ p.gridCap
  | .recon =>
    s.bitOff = 0 ∧ s.byteIdx = s.bufLen ∧ s.q.length + 14 ≤ s.bufLen ∧ (∀ i ∈ s.q, i.WellFormed) ∧
    s.npix.toNat ≤ p.gridCap ∧ s.qRd ≤ s.q.length ∧ s.cursor.toNat ≤ s.npix.toNat ∧ s.runRem = 0 ∧ CacheKeyed s ∧
    GridFilled s s.cursor.toNat
  | .done => s.npix.toNat ≤ p.gridCap ∧ GridFilled s s.npix.toNat
  | .error => True

/-- The invariant of the phase machine: memories in canonical form, BUF_LEN within the buffer (10_state.md R22),
ERR.CODE set exactly in ERROR (R26), and the invariant of the phase. -/
def Inv (p : Params) (s : State) : Prop :=
  Memory.wf s.ibuf = true ∧ Memory.wf s.grid = true ∧ s.bufLen ≤ p.ibufCap ∧
  (s.err = .noError ↔ s.phase ≠ .error) ∧ PhaseInv p s

/-- The transitions a step of the CORE may make (R161), that of PARSE with the stream exhausted apart; IDLE, DONE and ERROR are
left by the host alone. -/
def coreTransition : Phase → Phase → Bool
  | .idle, .idle => true
  | .hdr, .parse => true
  | .hdr, .error => true
  | .parse, .parse => true
  | .parse, .recon => true
  | .parse, .error => true
  | .recon, .recon => true
  | .recon, .done => true
  | .recon, .error => true
  | .done, .done => true
  | .error, .error => true
  | _, _ => false

/-- The error kinds a stage can raise (60_exceptions.md R179; UnknownChunkTag is unreachable, R173). -/
def stageRaises : Phase → ErrKind → Bool
  | .hdr, .badSignature => true
  | .hdr, .truncated => true
  | .parse, .truncated => true
  | .recon, .bufferOverrun => true
  | .recon, .incompleteImage => true
  | _, _ => false

/-- What the host can see without a grid read: PHASE, ERR.CODE, BUF_LEN and the readable registers (10_state.md R27). -/
def SameRegisters (s t : State) : Prop := ∀ k, readReg s k = readReg t k

end Sys2Proof.Safety
end

