-- ==== Sys2Proof/Certificates/Slice0/Obligations.lean ====
section
/-! DEFINITION. The statements for the provers, from the numbered rules of spec/. They are made for EVERY value of the
parameters (`Params`), which the spec leaves open (00_scope.md R5); `Machine.step` is the instance at `Config.params`. -/

open Sys2Proof Sys2Proof.Machine Sys2Proof.Safety

/-! ### Encodings -/

/-- The source's decode vectors, word for word (95_test_vectors.md S2 to S7). -/
def Obligations.DecodesTheSourceVectors : Prop :=
  decode [0xFE, 0x11, 0x05, 0x13] = .ok (.rgb 0x11 0x05 0x13, []) ∧
  decode [0xFF, 0xFF, 0x12, 0x07, 0x10] = .ok (.rgba 0xFF 0x12 0x07 0x10, []) ∧
  decode [0b00101010] = .ok (.index 42, []) ∧
  decode [0b01110100] = .ok (.diff 3 1 0, []) ∧
  decode [0b10011010, 0b10010110] = .ok (.luma 0b011010 0b1001 0b0110, []) ∧
  decode [0b11011010] = .ok (.run 0b011010, [])

/-- Decoding the encoding of a record the stream can express gives the record back, whatever stands behind it (R73). -/
def Obligations.DecodeUndoesEncode : Prop :=
  ∀ (i : Instr) (rest : List Byte), i.WellFormed → decode (encode i ++ rest) = .ok (i, rest)

/-- What decodes to a record is that record's encoding: no other bytes do, and Run 62 and Run 63 come from none (R73, R99). -/
def Obligations.DecodedBytesAreTheEncoding : Prop :=
  ∀ (bytes : List Byte) (i : Instr) (rest : List Byte),
    decode bytes = .ok (i, rest) → i.WellFormed ∧ bytes = encode i ++ rest

/-- The dispatch order and the length are functions of the first byte alone, and every byte begins a chunk (R68). -/
def Obligations.FirstByteSelectsKindAndLength : Prop :=
  ∀ b0 : Byte,
    ∃ k, kindOf b0 = some k ∧
      k = (if b0 = 0xFE then .rgb
           else if b0 = 0xFF then .rgba
           else if b0.extractLsb' 6 2 = (0b00 : BitVec 2) then .index
           else if b0.extractLsb' 6 2 = (0b01 : BitVec 2) then .diff
           else if b0.extractLsb' 6 2 = (0b10 : BitVec 2) then .luma
           else .run) ∧
      k.need = 8 * (if b0 = 0xFE then 4 else if b0 = 0xFF then 5 else if 0x80 ≤ b0.toNat ∧ b0.toNat ≤ 0xBF then 2 else 1)

/-- A chunk is Truncated exactly when fewer bytes are left than its first byte asks for; else it decodes and the stream
goes on behind it (R104). -/
def Obligations.TruncatedExactlyWhenShort : Prop :=
  ∀ (b0 : Byte) (rest : List Byte),
    let len := if b0 = 0xFE then 4 else if b0 = 0xFF then 5 else if 0x80 ≤ b0.toNat ∧ b0.toNat ≤ 0xBF then 2 else 1
    (rest.length + 1 < len → decode (b0 :: rest) = .error .truncated) ∧
    (len ≤ rest.length + 1 → ∃ i, kindOf b0 = some i.kind ∧ decode (b0 :: rest) = .ok (i, (b0 :: rest).drop len))

/-- The bit-level decoder, repeated, is the byte-wise parser of R102. -/
def Obligations.ParserIsByteWise : Prop :=
  parseBytes [] = .ok [] ∧
  ∀ (b0 : Byte) (bs : List Byte),
    parseBytes (b0 :: bs) =
      match decode (b0 :: bs) with
      | .error e => .error (decodeErrKind e)
      | .ok (i, rest) => consChunk i (parseBytes rest)

/-- UnknownChunkTag is unreachable: no bytes decode to it and no step records it (R173). -/
def Obligations.UnknownChunkTagNeverRaised : Prop :=
  (∀ bytes : List Byte, decode bytes ≠ .error .unknownChunkTag) ∧
  ∀ (p : Params) (s t : State), stepWith p s = .next t → s.err ≠ .unknownChunkTag → t.err ≠ .unknownChunkTag

/-! ### Fetching: the parser's step and the engine's step -/

/-- A step in PARSE queues the chunk the decoder reads at the cursor and moves past it, or raises the decoder's error (R94 to
R101). That the step of the last chunk already enters RECON, and that finding the stream exhausted is no step of its own, so
that the step is then the engine's, is the model's reading, log 1. -/
def Obligations.ParseStepQueuesTheDecodedChunk : Prop :=
  ∀ (p : Params) (s : State) (bs : List Byte),
    s.inputs = [] → s.phase = .parse → s.bitOff = 0 → s.byteIdx ≤ s.bufLen →
    Memory.bytes s.ibuf s.byteIdx (s.bufLen - s.byteIdx) = some bs →
    stepWith p s =
      if bs = [] then reconStep { s with phase := .recon }
      else
        match decode bs with
        | .error e => .next (s.raise (decodeErrKind e))
        | .ok (i, rest) =>
          .next { s with
            q := s.q ++ [i]
            byteIdx := s.bufLen - rest.length
            phase := if rest = [] then .recon else .parse }

/-- A step of the engine runs the record at Q_RD: exactly `exec` of it, which ends by advancing Q_RD (R114). -/
def Obligations.EngineStepRunsTheQueuedChunk : Prop :=
  ∀ (p : Params) (s : State) (i : Instr),
    s.phase = .recon → s.q[s.qRd]? = some i →
    (s.inputs = [] → stepWith p s = exec i s) ∧
    (∀ ms, s.inputs = .tick :: ms → stepWith p s = exec i (s.setInputs ms))

/-- The placed word runs: the step after `withFetchWord` is `exec` of the instruction the decoder reads (the model's own
aid, log 19). -/
def Obligations.PlacedWordRunsNext : Prop :=
  ∀ (p : Params) (s : State) (nbits w : Nat) (i : Instr),
    decodeTableWord nbits w = some i →
    stepWith p (s.withFetchWord nbits w) = exec i (s.withFetchWord nbits w)

/-! ### The six chunks -/

/-- RGB, the bytes FE r g b: new = (r, g, b, PREV.a); written, cached and made PREV; BufferOverrun without room (R130). -/
def Obligations.RgbWritesItsPixel : Prop :=
  ∀ (r g b : Byte) (s : State),
    decode [0xFE, r, g, b] = .ok (.rgb r g b, []) ∧
    (s.cursor.toNat < s.npix.toNat →
      ∃ t, exec (.rgb r g b) s = .next t ∧ Emitted s t ⟨r, g, b, s.prev.a⟩ ∧ CachedAt s t ⟨r, g, b, s.prev.a⟩) ∧
    (s.npix.toNat ≤ s.cursor.toNat → exec (.rgb r g b) s = .next (s.raise .bufferOverrun))

/-- RGBA, the bytes FF r g b a: new = (r, g, b, a); written, cached and made PREV; BufferOverrun without room (R131). -/
def Obligations.RgbaWritesItsPixel : Prop :=
  ∀ (r g b a : Byte) (s : State),
    decode [0xFF, r, g, b, a] = .ok (.rgba r g b a, []) ∧
    (s.cursor.toNat < s.npix.toNat →
      ∃ t, exec (.rgba r g b a) s = .next t ∧ Emitted s t ⟨r, g, b, a⟩ ∧ CachedAt s t ⟨r, g, b, a⟩) ∧
    (s.npix.toNat ≤ s.cursor.toNat → exec (.rgba r g b a) s = .next (s.raise .bufferOverrun))

/-- INDEX, the byte 00iiiiii: new = CACHE[index] verbatim, whatever the slot holds; written and made PREV; the cache is not
rewritten; BufferOverrun without room, and no other error (R135). -/
def Obligations.IndexRepeatsTheSlot : Prop :=
  ∀ (slot : BitVec 6) (s : State),
    decode [(0b00 : BitVec 2) ++ slot] = .ok (.index slot, []) ∧
    (s.cursor.toNat < s.npix.toNat →
      ∃ t, exec (.index slot) s = .next t ∧ Emitted s t (indexPixel s.cache slot) ∧ t.cache = s.cache) ∧
    (s.npix.toNat ≤ s.cursor.toNat → exec (.index slot) s = .next (s.raise .bufferOverrun))

/-- DIFF, the byte 01rrggbb: each colour channel is (PREV + stored - 2) mod 256, alpha is PREV's; BufferOverrun without
room (R140). -/
def Obligations.DiffAddsItsDeltas : Prop :=
  ∀ (dr dg db : BitVec 2) (s : State),
    decode [(0b01 : BitVec 2) ++ dr ++ dg ++ db] = .ok (.diff dr dg db, []) ∧
    (s.cursor.toNat < s.npix.toNat →
      ∃ t new, exec (.diff dr dg db) s = .next t ∧ Emitted s t new ∧ CachedAt s t new ∧
        (new.r.toNat : Int) = ((s.prev.r.toNat : Int) + dr.toNat - 2) % 256 ∧
        (new.g.toNat : Int) = ((s.prev.g.toNat : Int) + dg.toNat - 2) % 256 ∧
        (new.b.toNat : Int) = ((s.prev.b.toNat : Int) + db.toNat - 2) % 256 ∧
        new.a = s.prev.a) ∧
    (s.npix.toNat ≤ s.cursor.toNat → exec (.diff dr dg db) s = .next (s.raise .bufferOverrun))

/-- LUMA, the bytes 10gggggg rrrrbbbb: the green delta is stored - 32, the red and blue ones that plus stored - 8, all mod
256; alpha is PREV's; BufferOverrun without room (R141, in its closed form). -/
def Obligations.LumaAddsItsDeltas : Prop :=
  ∀ (dg : BitVec 6) (drDg dbDg : BitVec 4) (s : State),
    decode [(0b10 : BitVec 2) ++ dg, drDg ++ dbDg] = .ok (.luma dg drDg dbDg, []) ∧
    (s.cursor.toNat < s.npix.toNat →
      ∃ t new, exec (.luma dg drDg dbDg) s = .next t ∧ Emitted s t new ∧ CachedAt s t new ∧
        (new.g.toNat : Int) = ((s.prev.g.toNat : Int) + dg.toNat - 32) % 256 ∧
        (new.r.toNat : Int) = ((s.prev.r.toNat : Int) + dg.toNat + drDg.toNat - 40) % 256 ∧
        (new.b.toNat : Int) = ((s.prev.b.toNat : Int) + dg.toNat + dbDg.toNat - 40) % 256 ∧
        new.a = s.prev.a) ∧
    (s.npix.toNat ≤ s.cursor.toNat → exec (.luma dg drDg dbDg) s = .next (s.raise .bufferOverrun))

/-- RUN, for every stored value 0..63, with n = run + 1 and room = NPIX - CURSOR. If n <= room, the n entries from the
cursor hold PREV, each at its own row and column, every other byte of the grid is as it was, the cursor is n further, RUN_REM
is back at 0, Q_RD is one further, and nothing else changes. If n > room, BufferOverrun (R151). -/
def Obligations.RunRepeatsPrev : Prop :=
  ∀ (run : BitVec 6) (s : State),
    (run.toNat + 1 ≤ s.npix.toNat - s.cursor.toNat →
      ∃ t, exec (.run run) s = .next t ∧
        (∀ j, j < run.toNat + 1 →
          Memory.pixelAt t.grid
            (s.entryAddr ((s.cursor.toNat + j) / s.width.toNat) ((s.cursor.toNat + j) % s.width.toNat)) = some s.prev) ∧
        (∀ a, (a < s.pixelAddr s.cursor.toNat ∨ s.pixelAddr (s.cursor.toNat + (run.toNat + 1)) ≤ a) →
          Memory.read t.grid a = Memory.read s.grid a) ∧
        t.cursor.toNat = s.cursor.toNat + (run.toNat + 1) ∧
        t = { s with grid := t.grid, cursor := t.cursor, runRem := 0, qRd := s.qRd + 1 }) ∧
    (s.npix.toNat - s.cursor.toNat < run.toNat + 1 →
      ∃ t, exec (.run run) s = .next t ∧ t.phase = .error ∧ t.err = .bufferOverrun)

/-- On a full grid every chunk raises BufferOverrun, and nothing but PHASE, ERR.CODE and RUN's own counter changes (R111,
R153, R176). -/
def Obligations.FullGridOverruns : Prop :=
  ∀ (i : Instr) (s : State), s.npix.toNat ≤ s.cursor.toNat →
    ∃ t, exec i s = .next t ∧ t = { s with phase := .error, err := .bufferOverrun, runRem := t.runRem } ∧
      (i.kind ≠ .run → t.runRem = s.runRem)

/-- No chunk ever stops the machine: from every state each of the six answers a next state. -/
def Obligations.EveryChunkAnswersANextState : Prop :=
  ∀ (i : Instr) (s : State), ∃ t, exec i s = .next t

/-- FRAME of RGB, RGBA, INDEX, DIFF and LUMA: only GRID's four bytes at the cursor's entry, CURSOR, PREV, the one cache slot
(none for INDEX), Q_RD, or PHASE and ERR.CODE, change. -/
def Obligations.EmittingChunkFrame : Prop :=
  ∀ (i : Instr) (s t : State), i.kind ≠ .run → exec i s = .next t →
    t.ibuf = s.ibuf ∧ t.bufLen = s.bufLen ∧ t.width = s.width ∧ t.height = s.height ∧ t.channels = s.channels ∧
    t.colorspace = s.colorspace ∧ t.byteIdx = s.byteIdx ∧ t.bitOff = s.bitOff ∧ t.q = s.q ∧ t.runRem = s.runRem ∧
    t.inputs = s.inputs ∧ t.freeCtr = s.freeCtr ∧
    (∀ k : BitVec 6, (i.kind = .index ∨ k ≠ pixelHash t.prev) → indexPixel t.cache k = indexPixel s.cache k) ∧
    (∀ a, (a < s.pixelAddr s.cursor.toNat ∨ s.pixelAddr s.cursor.toNat + 4 ≤ a) →
      Memory.read t.grid a = Memory.read s.grid a) ∧
    ((t.phase = s.phase ∧ t.err = s.err) ∨
      (t.phase = .error ∧ t.err = .bufferOverrun ∧ t.grid = s.grid ∧ t.cursor = s.cursor ∧ t.cache = s.cache ∧
        t.prev = s.prev ∧ t.qRd = s.qRd))

/-- FRAME of RUN: only GRID's bytes at the entries it has room to write, CURSOR, RUN_REM, Q_RD, or PHASE and ERR.CODE, change;
PREV and the whole cache do not. -/
def Obligations.RunFrame : Prop :=
  ∀ (run : BitVec 6) (s t : State), exec (.run run) s = .next t →
    t.ibuf = s.ibuf ∧ t.bufLen = s.bufLen ∧ t.width = s.width ∧ t.height = s.height ∧ t.channels = s.channels ∧
    t.colorspace = s.colorspace ∧ t.byteIdx = s.byteIdx ∧ t.bitOff = s.bitOff ∧ t.q = s.q ∧ t.prev = s.prev ∧
    t.cache = s.cache ∧ t.inputs = s.inputs ∧ t.freeCtr = s.freeCtr ∧
    (∀ a,
      (∀ j, j < run.toNat + 1 → s.cursor.toNat + j < s.npix.toNat →
        a < s.pixelAddr (s.cursor.toNat + j) ∨ s.pixelAddr (s.cursor.toNat + j) + 4 ≤ a) →
      Memory.read t.grid a = Memory.read s.grid a) ∧
    ((t.phase = s.phase ∧ t.err = s.err) ∨ (t.phase = .error ∧ t.err = .bufferOverrun ∧ t.qRd = s.qRd))

/-- CHANNELS and COLORSPACE have no effect on any chunk (R11). -/
def Obligations.ChunksIgnoreChannelsAndColorspace : Prop :=
  ∀ (i : Instr) (s t : State) (c d : Byte), exec i s = .next t →
    exec i { s with channels := c, colorspace := d } = .next { t with channels := c, colorspace := d }

/-! ### Cursor, cache, grid, hash -/

/-- The cursor never passes NPIX, never decreases, and so never wraps (R17, R153). -/
def Obligations.CursorStaysWithinTheGrid : Prop :=
  ∀ (i : Instr) (s t : State), s.cursor.toNat ≤ s.npix.toNat → exec i s = .next t →
    s.cursor.toNat ≤ t.cursor.toNat ∧ t.cursor.toNat ≤ t.npix.toNat

/-- Every chunk keeps each cache slot at (0,0,0,0) or at a pixel of its own hash (R16). -/
def Obligations.CacheStaysKeyedByHash : Prop :=
  ∀ (i : Instr) (s t : State), CacheKeyed s → exec i s = .next t → CacheKeyed t

/-- GridWrite(c, px) with c < NPIX: the entry at row c / WIDTH, column c % WIDTH holds px; the row and column are inside the
grid, WIDTH is not 0, the entry is the c-th in row-major order, and every other entry is as before (R113). -/
def Obligations.GridIsRowMajor : Prop :=
  ∀ (s : State) (c : Nat) (px : Pixel), c < s.npix.toNat →
    0 < s.width.toNat ∧ c / s.width.toNat < s.height.toNat ∧ c % s.width.toNat < s.width.toNat ∧
    c / s.width.toNat * s.width.toNat + c % s.width.toNat = c ∧
    Memory.pixelAt (s.gridWrite c px).grid (s.entryAddr (c / s.width.toNat) (c % s.width.toNat)) = some px ∧
    ∀ row col, row < s.height.toNat → col < s.width.toNat →
      ¬ (row = c / s.width.toNat ∧ col = c % s.width.toNat) →
      Memory.pixelAt (s.gridWrite c px).grid (s.entryAddr row col) = Memory.pixelAt s.grid (s.entryAddr row col)

/-- The hash with 8-bit wraparound equals the wide computation, and the one on channels reduced modulo 64 (R156). -/
def Obligations.HashEqualsTheWideForm : Prop :=
  ∀ px : Pixel,
    (pixelHash px).toNat = (3 * px.r.toNat + 5 * px.g.toNat + 7 * px.b.toNat + 11 * px.a.toNat) % 64 ∧
    (pixelHash px).toNat =
      (3 * (px.r.toNat % 64) + 5 * (px.g.toNat % 64) + 7 * (px.b.toNat % 64) + 11 * (px.a.toNat % 64)) % 64

/-! ### Header stage, termination, errors -/

/-- The header stage is parse_header of the buffer: its error is raised; else the four registers are loaded, the cursor
stands at byte 14 and PHASE is PARSE (R80 to R85). A header with NPIX > GRID_CAP is refused (R43), in this step: log 17. -/
def Obligations.HeaderStageIsParseHeader : Prop :=
  ∀ (p : Params) (s : State) (buf : List Byte),
    s.inputs = [] → s.phase = .hdr → HoldsBuffer s buf →
    stepWith p s =
      match parseHeader p.sig buf with
      | .error k => .next (s.raise k)
      | .ok (h, _) =>
        if p.gridCap < h.width.toNat * h.height.toNat then .refused .launchOverGridCap
        else
          .next { s with width := h.width, height := h.height, channels := h.channels, colorspace := h.colorspace,
                         byteIdx := 14, bitOff := 0, phase := .parse }

/-- Which error the header raises, and when: the table of R86. -/
def Obligations.HeaderErrorsInReadingOrder : Prop :=
  ∀ (sig : BitVec 32) (buf : List Byte),
    (buf.length < 4 → parseHeader sig buf = .error .truncated) ∧
    (4 ≤ buf.length → beNat 0 (buf.take 4) ≠ sig.toNat → parseHeader sig buf = .error .badSignature) ∧
    (4 ≤ buf.length → beNat 0 (buf.take 4) = sig.toNat → buf.length < 14 → parseHeader sig buf = .error .truncated) ∧
    (14 ≤ buf.length → beNat 0 (buf.take 4) = sig.toNat → ∃ h, parseHeader sig buf = .ok (h, buf.drop 14))

/-- Header integers are big-endian: if the first four bytes are SIG, a header of 14 bytes or more always loads, whatever its
other bytes are, with WIDTH = IBUF[4] * 2^24 + IBUF[5] * 2^16 + IBUF[6] * 2^8 + IBUF[7], HEIGHT likewise from IBUF[8..11],
CHANNELS = IBUF[12] and COLORSPACE = IBUF[13] (R49, R83). -/
def Obligations.HeaderIntegersAreBigEndian : Prop :=
  ∀ (sig : BitVec 32) (s0 s1 s2 s3 w0 w1 w2 w3 h0 h1 h2 h3 c d : Byte) (rest : List Byte),
    s0.toNat * 2 ^ 24 + s1.toNat * 2 ^ 16 + s2.toNat * 2 ^ 8 + s3.toNat = sig.toNat →
    ∃ h : Header,
      parseHeader sig (s0 :: s1 :: s2 :: s3 :: w0 :: w1 :: w2 :: w3 :: h0 :: h1 :: h2 :: h3 :: c :: d :: rest) =
        .ok (h, rest) ∧
      h.width.toNat = w0.toNat * 2 ^ 24 + w1.toNat * 2 ^ 16 + w2.toNat * 2 ^ 8 + w3.toNat ∧
      h.height.toNat = h0.toNat * 2 ^ 24 + h1.toNat * 2 ^ 16 + h2.toNat * 2 ^ 8 + h3.toNat ∧
      h.channels = c ∧ h.colorspace = d

/-- The termination test: behind the last chunk the decode is DONE if the cursor equals NPIX and IncompleteImage else
(R115). -/
def Obligations.TerminationTestDecides : Prop :=
  ∀ (p : Params) (s : State), s.inputs = [] → s.phase = .recon → s.q.length ≤ s.qRd →
    stepWith p s =
      if s.cursor = s.npix then .next { s with phase := .done }
      else .next { s with phase := .error, err := .incompleteImage }

/-- DONE and ERROR are stable: a core step leaves PHASE, ERR.CODE, GRID, IBUF and every register the host can read as they
were (R161, R176). That GRID, and in ERROR with Truncated or BadSignature the header registers, keep values the spec leaves
undefined there is the model's choice, log 8 and log 23. -/
def Obligations.DoneAndErrorAreStable : Prop :=
  ∀ (p : Params) (s : State), s.inputs = [] → (s.phase = .done ∨ s.phase = .error) →
    ∃ t, stepWith p s = .next t ∧ t.phase = s.phase ∧ t.err = s.err ∧ t.grid = s.grid ∧ t.ibuf = s.ibuf ∧
      t.inputs = [] ∧ SameRegisters s t ∧ (∀ row col, readGrid t row col = readGrid s row col)

/-- In IDLE the core does nothing until the host acts (R191). -/
def Obligations.IdleWaitsForTheHost : Prop :=
  ∀ (p : Params) (s : State), s.inputs = [] → s.phase = .idle → stepWith p s = .next s

/-- A core step makes only the transitions of R161; in PARSE with the stream exhausted it goes through RECON and makes one of
RECON's in the same step (log 1). -/
def Obligations.OnlyTheListedTransitions : Prop :=
  ∀ (p : Params) (s t : State), coreStep p s = .next t →
    coreTransition s.phase t.phase = true ∨
    (s.phase = .parse ∧ s.remBits = 0 ∧ coreTransition .recon t.phase = true)

/-- A core step that enters ERROR records a kind its stage can raise (R179), and no other core step changes ERR.CODE. In PARSE
with the stream exhausted the stage is the engine's (log 1). -/
def Obligations.StagesRaiseTheirOwnErrors : Prop :=
  ∀ (p : Params) (s t : State), coreStep p s = .next t →
    (t.phase = .error ∧ s.phase ≠ .error ∧
      (stageRaises s.phase t.err = true ∨
        (s.phase = .parse ∧ s.remBits = 0 ∧ stageRaises .recon t.err = true))) ∨
    (t.err = s.err ∧ (t.phase = .error → s.phase = .error))

/-- The engine starts only when the parser has consumed the whole stream: RECON is entered from PARSE alone, with no bit
left (R163). -/
def Obligations.EngineWaitsForTheWholeStream : Prop :=
  ∀ (p : Params) (s t : State), stepWith p s = .next t → s.phase ≠ .recon → t.phase = .recon →
    s.phase = .parse ∧ t.remBits = 0

/-- The core never writes IBUF or BUF_LEN, and only the header stage writes the header registers (R40, R11). -/
def Obligations.CoreLeavesInputAlone : Prop :=
  ∀ (p : Params) (s t : State), coreStep p s = .next t →
    t.ibuf = s.ibuf ∧ t.bufLen = s.bufLen ∧ t.inputs = s.inputs ∧
    (s.phase ≠ .hdr →
      t.width = s.width ∧ t.height = s.height ∧ t.channels = s.channels ∧ t.colorspace = s.colorspace)

/-- While a decode runs, the queue is only appended to by the parser, and only stepped through by the engine, one record at a
time (R18, R114); the engine's step in PARSE, with the stream exhausted, is one of those too (log 1). -/
def Obligations.QueueIsFirstInFirstOut : Prop :=
  ∀ (p : Params) (s t : State), coreStep p s = .next t →
    (s.phase = .parse → s.remBits ≠ 0 → t.qRd = s.qRd ∧ (t.q = s.q ∨ ∃ i, t.q = s.q ++ [i])) ∧
    (s.phase = .recon ∨ (s.phase = .parse ∧ s.remBits = 0) →
      t.q = s.q ∧ (t.qRd = s.qRd ∨ t.qRd = s.qRd + 1))

/-! ### Host interface and reset -/

/-- START, with BUF_LEN within IBUF_CAP: accepted in IDLE, DONE and ERROR, where it leaves the state of R160, IBUF and BUF_LEN
as the host left them; ignored in HDR, PARSE and RECON (R160). -/
def Obligations.StartInitialisesTheDecode : Prop :=
  ∀ (p : Params) (s : State) (v : Nat) (ms : List HostMove),
    s.inputs = .writeReg 0 v :: ms → v.testBit 0 = true → s.bufLen ≤ p.ibufCap →
    ((s.phase = .hdr ∨ s.phase = .parse ∨ s.phase = .recon) → stepWith p s = .next (s.setInputs ms)) ∧
    ((s.phase = .idle ∨ s.phase = .done ∨ s.phase = .error) →
      ∃ t, stepWith p s = .next t ∧ t.phase = .hdr ∧ t.err = .noError ∧ t.prev = ⟨0, 0, 0, 255⟩ ∧
        (∀ k : BitVec 6, indexPixel t.cache k = ⟨0, 0, 0, 0⟩) ∧ t.cursor = 0 ∧ t.runRem = 0 ∧ t.q = [] ∧ t.qLen = 0 ∧
        t.qRd = 0 ∧ t.byteIdx = 0 ∧ t.bitOff = 0 ∧ t.ibuf = s.ibuf ∧ t.bufLen = s.bufLen ∧ t.inputs = ms)

/-- A launch with BUF_LEN above IBUF_CAP, which no register write can set up, is refused and given no meaning: the choice of
log 17. -/
def Obligations.OversizedLaunchIsRefused : Prop :=
  ∀ (p : Params) (s : State) (v : Nat) (ms : List HostMove),
    s.inputs = .writeReg 0 v :: ms → v.testBit 0 = true → busy s = false → p.ibufCap < s.bufLen →
    stepWith p s = .refused .launchOverIbufCap

/-- Register writes: BUF_LEN takes a value up to IBUF_CAP while no decode runs, and nothing else; writing CTRL with START
clear, or a number not listed, changes nothing (R22, R23, R27). That a write to a read-only register changes nothing is the
model's reading, log 14. -/
def Obligations.RegisterWritesAreGuarded : Prop :=
  ∀ (p : Params) (s : State) (k v : Nat),
    hostWriteReg p 3 v s = .next (if busy s = false ∧ v ≤ p.ibufCap then { s with bufLen := v } else s) ∧
    (v.testBit 0 = false → hostWriteReg p 0 v s = .next s) ∧
    (k ≠ 0 → k ≠ 3 → hostWriteReg p k v s = .next s)

/-- Register reads: CTRL and unlisted numbers read 0, STATUS and ERR the numbers of R25 and R26, bits 31:3 zero, and no private
state is readable (R23 to R27). -/
def Obligations.RegisterReadsShowOnlyTheRegisters : Prop :=
  (∀ s : State, readReg s 0 = 0 ∧
    readReg s 1 =
      (match s.phase with
        | .idle => 0
        | .hdr => 1
        | .parse => 2
        | .recon => 3
        | .done => 4
        | .error => 5) ∧
    readReg s 2 =
      (match s.err with
        | .noError => 0
        | .badSignature => 1
        | .truncated => 2
        | .unknownChunkTag => 3
        | .bufferOverrun => 4
        | .incompleteImage => 5) ∧
    readReg s 3 = s.bufLen ∧ readReg s 4 = s.width.toNat ∧ readReg s 5 = s.height.toNat ∧
    readReg s 6 = s.channels.toNat ∧ readReg s 7 = s.colorspace.toNat) ∧
  (∀ (s : State) (k : Nat), 8 ≤ k → readReg s k = 0) ∧
  ∀ s t : State, s.phase = t.phase → s.err = t.err → s.bufLen = t.bufLen → s.width = t.width → s.height = t.height →
    s.channels = t.channels → s.colorspace = t.colorspace → SameRegisters s t

/-- Loading IBUF: outside a decode a byte written below IBUF_CAP reads back and no other byte changes (R40, R166). During one the
move is refused, log 15, and at or above IBUF_CAP it faults, log 16: the model's choices. -/
def Obligations.LoadedByteReadsBack : Prop :=
  ∀ (p : Params) (s : State) (a : Nat) (b : Byte),
    (busy s = true → hostLoadByte p a b s = .refused .ibufWriteWhileBusy) ∧
    (busy s = false → p.ibufCap ≤ a → hostLoadByte p a b s = .fault (.ibufOutOfRange a)) ∧
    (busy s = false → a < p.ibufCap →
      ∃ t, hostLoadByte p a b s = .next t ∧ Memory.read t.ibuf a = some b ∧
        (∀ c, c ≠ a → Memory.read t.ibuf c = Memory.read s.ibuf c) ∧ t = { s with ibuf := t.ibuf })

/-- The grid is readable only in DONE, and an entry that reads is inside the grid and reads as its four bytes r, g, b, a
(R46, R47). -/
def Obligations.GridReadableOnlyInDone : Prop :=
  ∀ (s : State) (row col a : Nat),
    (s.phase ≠ .done → readGrid s row col = .refused .gridNotReadable ∧ readGridByte s a = .refused .gridNotReadable) ∧
    (∀ px, readGrid s row col = .next px →
      s.phase = .done ∧ row < s.height.toNat ∧ col < s.width.toNat ∧
      readGridByte s (4 * (row * s.width.toNat + col)) = .next px.r ∧
      readGridByte s (4 * (row * s.width.toNat + col) + 1) = .next px.g ∧
      readGridByte s (4 * (row * s.width.toNat + col) + 2) = .next px.b ∧
      readGridByte s (4 * (row * s.width.toNat + col) + 3) = .next px.a)

/-- Hardware reset, in any phase: PHASE becomes IDLE, ERR.CODE is NONE, BUF_LEN 0, the decode is abandoned and GRID is not
readable (R190, R192); `State.reset` itself has those three values (R30). -/
def Obligations.ResetAbandonsTheDecode : Prop :=
  (State.reset.phase = .idle ∧ State.reset.err = .noError ∧ State.reset.bufLen = 0) ∧
  ∀ (p : Params) (s : State) (ms : List HostMove), s.inputs = .reset :: ms →
    ∃ t, stepWith p s = .next t ∧ t.phase = .idle ∧ t.err = .noError ∧ t.bufLen = 0 ∧ t.inputs = ms ∧
      ∀ row col, readGrid t row col = .refused .gridNotReadable

/-! ### Invariants -/

/-- Every step keeps both memories in canonical form, from every state. -/
def Obligations.MemoriesStayCanonical : Prop :=
  (∀ (p : Params) (s t : State), Memory.wf s.ibuf = true → Memory.wf s.grid = true → stepWith p s = .next t →
    Memory.wf t.ibuf = true ∧ Memory.wf t.grid = true) ∧
  ∀ s t : State, Memory.wf s.ibuf = true → Memory.wf s.grid = true → step s = .next t →
    Memory.wf t.ibuf = true ∧ Memory.wf t.grid = true

/-- ERR.CODE is not NONE exactly when PHASE is ERROR, and every step keeps that (R26). -/
def Obligations.ErrorCodeExactlyInError : Prop :=
  ∀ (p : Params) (s t : State), (s.err ≠ .noError ↔ s.phase = .error) → stepWith p s = .next t →
    (t.err ≠ .noError ↔ t.phase = .error)

/-- The invariant of the phase machine, every clause of `Safety.Inv`, is kept by every step, of the core and of the host. -/
def Obligations.StepKeepsTheInvariant : Prop :=
  (∀ (p : Params) (s t : State), Inv p s → stepWith p s = .next t → Inv p t) ∧
  ∀ s t : State, Inv Config.params s → step s = .next t → Inv Config.params t

/-- The state after reset meets the invariant, whatever the host is about to do. -/
def Obligations.ResetMeetsTheInvariant : Prop :=
  ∀ (p : Params) (ms : List HostMove), Inv p { State.reset with inputs := ms }

/-- In DONE every entry of the grid reads as a pixel: the image is complete (R46, R116). -/
def Obligations.DoneGridIsComplete : Prop :=
  ∀ (p : Params) (s : State), Inv p s → s.phase = .done →
    ∀ row col, row < s.height.toNat → col < s.width.toNat → ∃ px, readGrid s row col = .next px

/-! ### Whole decodes -/

/-- The phase machine computes decode(buf): from a launch, within 1 + 1 + (BUF_LEN - 14) + (BUF_LEN - 14) + 1 steps, it is in
DONE with exactly the pixels and header of decode(buf), readable at (row, col), or in ERROR with exactly its error (R164,
R165, R178). -/
def Obligations.MachineComputesDecode : Prop :=
  ∀ (p : Params) (s : State) (buf : List Byte),
    Launch p s buf → GridFits p buf → s.inputs = [.writeReg 0 1] →
    ∃ (k : Nat) (t : State), k ≤ 3 + 2 * (buf.length - 14) ∧ runWith p k s = .next t ∧
      match decodeBuffer p.sig buf with
      | .error e => t.phase = .error ∧ t.err = e
      | .ok (h, pixels) =>
        t.phase = .done ∧ t.err = .noError ∧ t.width = h.width ∧ t.height = h.height ∧ t.channels = h.channels ∧
        t.colorspace = h.colorspace ∧ pixels.length = h.width.toNat * h.height.toNat ∧
        ∀ row col, row < h.height.toNat → col < h.width.toNat →
          ∃ px, pixels[row * h.width.toNat + col]? = some px ∧ readGrid t row col = .next px

/-- Every decode ends: from a launch DONE or ERROR is reached in at most 1 (START) + 1 (header) + BUF_LEN - 14 (parse steps)
+ BUF_LEN - 14 (execute steps) + 1 (termination test) steps (R165), where BUF_LEN - 14 is 0 below 14 bytes. -/
def Obligations.EveryDecodeEnds : Prop :=
  ∀ (p : Params) (s : State) (buf : List Byte),
    Launch p s buf → GridFits p buf → s.inputs = [.writeReg 0 1] →
    ∃ (k : Nat) (t : State), k ≤ 3 + 2 * (buf.length - 14) ∧ runWith p k s = .next t ∧ (t.phase = .done ∨ t.phase = .error)

/-- A decode depends on the buffer alone: two launches of one buffer, whatever each machine did before, agree at every step on
PHASE, ERR.CODE and GRID, and on the header registers once they are loaded (R31, R118). That GRID agrees before it is complete
rests on the model's START emptying it, log 6. -/
def Obligations.DecodeDependsOnTheBufferAlone : Prop :=
  ∀ (p : Params) (s s' : State) (k : Nat) (t : State),
    busy s = false → busy s' = false → s.ibuf = s'.ibuf → s.bufLen = s'.bufLen →
    s.inputs = [.writeReg 0 1] → s'.inputs = [.writeReg 0 1] →
    runWith p (k + 1) s = .next t →
    ∃ t', runWith p (k + 1) s' = .next t' ∧ t'.phase = t.phase ∧ t'.err = t.err ∧ t'.grid = t.grid ∧
      (headerSure t = true →
        t'.width = t.width ∧ t'.height = t.height ∧ t'.channels = t.channels ∧ t'.colorspace = t.colorspace)

/-! ### The two agents -/

/-- Where no move of the host is due, or the move `tick`, the step is the core's (the model's way to hold the second agent,
log 2). -/
def Obligations.CoreStepsWhenNoMoveIsDue : Prop :=
  ∀ (p : Params) (s : State),
    (s.inputs = [] → stepWith p s = coreStep p s) ∧
    (∀ ms, s.inputs = .tick :: ms → stepWith p s = coreStep p (s.setInputs ms))
end

