-- ==== Sys2Proof/Laws/Decode.lean ====
section
/-! SUPPORT. The small lemmas of the decoder and the encoder. -/

namespace Sys2Proof

@[simp] theorem byteBits_length (b : Byte) : (byteBits b).length = 8 := rfl

@[simp] theorem bytesBits_nil : bytesBits [] = [] := rfl

@[simp] theorem bytesBits_cons (b : Byte) (bs : List Byte) : bytesBits (b :: bs) = byteBits b ++ bytesBits bs := rfl

theorem bytesBits_append (xs ys : List Byte) : bytesBits (xs ++ ys) = bytesBits xs ++ bytesBits ys := by
  induction xs with
  | nil => rfl
  | cons x xs ih => simp [ih]

@[simp] theorem bytesBits_length (bs : List Byte) : (bytesBits bs).length = 8 * bs.length := by
  induction bs with
  | nil => rfl
  | cons b bs ih => simp [ih]; omega

theorem bytesBits_drop (bs : List Byte) (n : Nat) : (bytesBits bs).drop (8 * n) = bytesBits (bs.drop n) := by
  induction n generalizing bs with
  | zero => simp
  | succ n ih =>
    cases bs with
    | nil => simp
    | cons b bs =>
      rw [show 8 * (n + 1) = 8 + 8 * n by omega, ← List.drop_drop]
      simpa [byteBits] using ih bs

/-- The first byte of a byte list is its first 8-bit field. -/
theorem field8_bytesBits (b : Byte) (tail : List Bool) : field 8 (byteBits b ++ tail) = b := by
  simp only [field, byteBits, List.cons_append, List.nil_append, List.take_succ_cons, List.take_zero, bitsNat]
  revert b
  decide

/-- Every kind's need is a whole number of bytes. -/
theorem ChunkKind.need_mod (k : ChunkKind) : k.need % 8 = 0 := by cases k <;> rfl

theorem ChunkKind.need_ge (k : ChunkKind) : 8 ≤ k.need := by cases k <;> decide

/-- Every byte begins a chunk of some kind (30_encoding.md R69). -/
theorem kindOf_isSome (b : Byte) : (kindOf b).isSome = true := by revert b; decide

/-- The fields taken for a kind make a record of that kind. -/
@[simp] theorem takeFields_kind (k : ChunkKind) (bs : List Bool) : (takeFields k bs).kind = k := by cases k <;> rfl

/-- Everything `decodeBits` can answer. -/
theorem decodeBits_cases (bs : List Bool) :
    (bs.length < 8 ∧ decodeBits bs = .error .truncated) ∨
    ∃ k, 8 ≤ bs.length ∧ kindOf (field 8 bs) = some k ∧
      decodeBits bs = if bs.length < k.need then .error .truncated else .ok (takeFields k bs, bs.drop k.need) := by
  unfold decodeBits
  by_cases h : bs.length < 8
  · exact Or.inl ⟨h, by simp [h]⟩
  · right
    obtain ⟨k, hk⟩ := Option.isSome_iff_exists.1 (kindOf_isSome (field 8 bs))
    exact ⟨k, by omega, hk, by simp [h, hk]⟩

/-- The first byte of an encoding names the kind. -/
theorem kindOf_encode {i : Instr} (h : i.WellFormed) : ∃ b bs, encode i = b :: bs ∧ kindOf b = some i.kind := by
  cases i with
  | rgb r g b => exact ⟨_, _, rfl, rfl⟩
  | rgba r g b a => exact ⟨_, _, rfl, rfl⟩
  | index i => exact ⟨_, _, rfl, by revert i; decide⟩
  | diff dr dg db => exact ⟨_, _, rfl, by revert dr dg db; decide⟩
  | luma dg x y => exact ⟨_, _, rfl, by clear h; change kindOf _ = some .luma; revert dg; decide⟩
  | run n => exact ⟨_, _, rfl, by revert n; decide⟩

/-! ### The decoder over bytes -/

/-- An 8-bit field at a byte boundary is the byte there. -/
theorem field8_drop (n : Nat) {b : Byte} {bs rest : List Byte} (h : bs.drop n = b :: rest) :
    field 8 ((bytesBits bs).drop (8 * n)) = b := by
  rw [bytesBits_drop, h]
  exact field8_bytesBits _ _

/-- The fields inside one byte, by their place in it. -/
theorem field_in_byte (b : Byte) (tail : List Bool) :
    field 6 ((byteBits b ++ tail).drop 2) = b.extractLsb' 0 6 ∧
    field 2 ((byteBits b ++ tail).drop 2) = b.extractLsb' 4 2 ∧
    field 2 ((byteBits b ++ tail).drop 4) = b.extractLsb' 2 2 ∧
    field 2 ((byteBits b ++ tail).drop 6) = b.extractLsb' 0 2 ∧
    field 4 (byteBits b ++ tail) = b.extractLsb' 4 4 ∧
    field 4 ((byteBits b ++ tail).drop 4) = b.extractLsb' 0 4 := by
  simp only [field, byteBits, List.cons_append, List.nil_append, List.drop_succ_cons, List.drop_zero,
    List.take_succ_cons, List.take_zero, bitsNat]
  revert b
  decide

theorem takeFields_rgb (b0 r g b : Byte) (rest : List Byte) :
    takeFields .rgb (bytesBits (b0 :: r :: g :: b :: rest)) = .rgb r g b := by
  have h1 := field8_drop 1 (b := r) (bs := b0 :: r :: g :: b :: rest) rfl
  have h2 := field8_drop 2 (b := g) (bs := b0 :: r :: g :: b :: rest) rfl
  have h3 := field8_drop 3 (b := b) (bs := b0 :: r :: g :: b :: rest) rfl
  simp only [takeFields]
  rw [h1, h2, h3]

theorem takeFields_rgba (b0 r g b a : Byte) (rest : List Byte) :
    takeFields .rgba (bytesBits (b0 :: r :: g :: b :: a :: rest)) = .rgba r g b a := by
  have h1 := field8_drop 1 (b := r) (bs := b0 :: r :: g :: b :: a :: rest) rfl
  have h2 := field8_drop 2 (b := g) (bs := b0 :: r :: g :: b :: a :: rest) rfl
  have h3 := field8_drop 3 (b := b) (bs := b0 :: r :: g :: b :: a :: rest) rfl
  have h4 := field8_drop 4 (b := a) (bs := b0 :: r :: g :: b :: a :: rest) rfl
  simp only [takeFields]
  rw [h1, h2, h3, h4]

theorem takeFields_luma (b0 b1 : Byte) (rest : List Byte) :
    takeFields .luma (bytesBits (b0 :: b1 :: rest)) =
      .luma (b0.extractLsb' 0 6) (b1.extractLsb' 4 4) (b1.extractLsb' 0 4) := by
  have h1 : (bytesBits (b0 :: b1 :: rest)).drop 8 = byteBits b1 ++ bytesBits rest :=
    bytesBits_drop (b0 :: b1 :: rest) 1
  have h2 : (bytesBits (b0 :: b1 :: rest)).drop 12 = (byteBits b1 ++ bytesBits rest).drop 4 := by
    rw [← h1, List.drop_drop]
  simp only [takeFields]
  rw [h1, h2, bytesBits_cons, (field_in_byte b0 _).1, (field_in_byte b1 _).2.2.2.2.1, (field_in_byte b1 _).2.2.2.2.2]

theorem takeFields_index (b0 : Byte) (rest : List Byte) :
    takeFields .index (bytesBits (b0 :: rest)) = .index (b0.extractLsb' 0 6) := by
  simp only [takeFields, bytesBits_cons, (field_in_byte b0 _).1]

theorem takeFields_run (b0 : Byte) (rest : List Byte) :
    takeFields .run (bytesBits (b0 :: rest)) = .run (b0.extractLsb' 0 6) := by
  simp only [takeFields, bytesBits_cons, (field_in_byte b0 _).1]

theorem takeFields_diff (b0 : Byte) (rest : List Byte) :
    takeFields .diff (bytesBits (b0 :: rest)) =
      .diff (b0.extractLsb' 4 2) (b0.extractLsb' 2 2) (b0.extractLsb' 0 2) := by
  obtain ⟨_, h2, h3, h4, _⟩ := field_in_byte b0 (bytesBits rest)
  simp only [takeFields, bytesBits_cons, h2, h3, h4]

/-- The decoder over bytes: the kind from the first byte, Truncated when too few are left, else the kind's fields. -/
theorem decode_cons (b0 : Byte) (rest : List Byte) :
    decode (b0 :: rest) =
      match kindOf b0 with
      | none => .error .unknownChunkTag
      | some k =>
        if 8 * (rest.length + 1) < k.need then .error .truncated
        else .ok (takeFields k (bytesBits (b0 :: rest)), (b0 :: rest).drop (k.need / 8)) := by
  have hb : field 8 (bytesBits (b0 :: rest)) = b0 := field8_bytesBits _ _
  unfold decode decodeBits
  rw [bytesBits_length, if_neg (by simp), hb]
  cases h : kindOf b0 with
  | none => rfl
  | some k =>
    simp only [List.length_cons]
    by_cases h2 : 8 * (rest.length + 1) < k.need <;> simp [h2]

/-- The fields taken for the kind the first byte names make a record the stream can express: no run of 62 or 63. -/
theorem takeFields_wf {k : ChunkKind} {bs : List Bool} (hl : 8 ≤ bs.length) (hk : kindOf (field 8 bs) = some k) :
    (takeFields k bs).WellFormed := by
  match bs, hl with
  | b7 :: b6 :: b5 :: b4 :: b3 :: b2 :: b1 :: b0 :: tl, hl =>
    clear hl
    cases k with
    | run =>
      simp only [takeFields, field, List.drop_succ_cons, List.drop_zero, List.take_succ_cons, List.take_zero, bitsNat, Instr.WellFormed, Instr.encodable] at hk ⊢
      revert hk; revert b0 b1 b2 b3 b4 b5 b6 b7; decide
    | _ => rfl

/-- The fields of a chunk depend on the chunk's own bytes alone. -/
theorem takeFields_take {b0 : Byte} {bs : List Byte} {k : ChunkKind} (h : k.need ≤ 8 * (bs.length + 1)) :
    takeFields k (bytesBits ((b0 :: bs).take (k.need / 8))) = takeFields k (bytesBits (b0 :: bs)) := by
  cases k with
  | rgb =>
    match bs, h with
    | r :: g :: b :: rest, _ => rw [takeFields_rgb]; exact takeFields_rgb _ _ _ _ []
    | [], h | [_], h | [_, _], h => simp [ChunkKind.need] at h
  | rgba =>
    match bs, h with
    | r :: g :: b :: a :: rest, _ => rw [takeFields_rgba]; exact takeFields_rgba _ _ _ _ _ []
    | [], h | [_], h | [_, _], h | [_, _, _], h => simp [ChunkKind.need] at h
  | luma =>
    match bs, h with
    | b1 :: rest, _ => rw [takeFields_luma]; exact takeFields_luma _ _ []
    | [], h => simp [ChunkKind.need] at h
  | index => rw [takeFields_index]; exact takeFields_index _ []
  | diff => rw [takeFields_diff]; exact takeFields_diff _ []
  | run => rw [takeFields_run]; exact takeFields_run _ []

/-- A chunk the decoder accepts is well-formed, and its bits were all there. -/
theorem decodeBits_ok {bits rest : List Bool} {i : Instr} (h : decodeBits bits = .ok (i, rest)) :
    i.WellFormed ∧ i.kind.need ≤ bits.length := by
  rcases decodeBits_cases bits with ⟨_, h0⟩ | ⟨k, hl, hk, h0⟩
  · rw [h0] at h; cases h
  · rw [h0] at h
    split at h; · cases h
    simp only [Except.ok.injEq, Prod.mk.injEq] at h
    obtain ⟨rfl, _⟩ := h
    exact ⟨takeFields_wf hl hk, by rw [takeFields_kind]; omega⟩

end Sys2Proof
end

