-- ==== Sys2Proof/Laws/Memory.lean ====
section
/-! SUPPORT. What the memory operations do: read after write, and that every one of them keeps the canonical form. -/

namespace Sys2Proof.Machine

theorem Memory.read_write_same (m : Memory) (a : Nat) (b : Byte) : Memory.read (Memory.write m a b) a = some b := by
  induction m with
  | nil => simp [Memory.write, Memory.read]
  | cons kv m ih =>
    obtain ⟨k, v⟩ := kv
    unfold Memory.write
    split
    · simp [Memory.read]
    · split
      · simp [Memory.read]
      · rename_i h; simp [Memory.read, ih, show k ≠ a by omega]

theorem Memory.read_write_other (m : Memory) {a c : Nat} (b : Byte) (h : c ≠ a) :
    Memory.read (Memory.write m a b) c = Memory.read m c := by
  induction m with
  | nil => simp [Memory.write, Memory.read, Ne.symm h]
  | cons kv m ih =>
    obtain ⟨k, v⟩ := kv
    unfold Memory.write
    split
    · simp [Memory.read, Ne.symm h]
    · split
      · rename_i hk; simp [Memory.read, Ne.symm h, show k ≠ c by omega]
      · simp [Memory.read, ih]

theorem Memory.read_write (m : Memory) (a c : Nat) (b : Byte) :
    Memory.read (Memory.write m a b) c = if c = a then some b else Memory.read m c := by
  split
  · rename_i h; rw [h, Memory.read_write_same]
  · rename_i h; exact Memory.read_write_other m b h

/-- Bytes below the first one written are left alone. -/
theorem Memory.read_writeBytes_below (m : Memory) (bs : List Byte) {a c : Nat} (h : c < a) :
    Memory.read (Memory.writeBytes m a bs) c = Memory.read m c := by
  induction bs generalizing m a with
  | nil => rfl
  | cons b bs ih =>
    unfold Memory.writeBytes
    rw [ih (Memory.write m a b) (by omega), Memory.read_write_other _ _ (by omega)]

/-- Bytes at or behind the last one written are left alone. -/
theorem Memory.read_writeBytes_above (m : Memory) (bs : List Byte) {a c : Nat} (h : a + bs.length ≤ c) :
    Memory.read (Memory.writeBytes m a bs) c = Memory.read m c := by
  induction bs generalizing m a with
  | nil => rfl
  | cons b bs ih =>
    simp only [List.length_cons] at h
    unfold Memory.writeBytes
    rw [ih (Memory.write m a b) (by omega), Memory.read_write_other _ _ (by omega)]

/-- A byte written reads back. -/
theorem Memory.read_writeBytes_in (m : Memory) (bs : List Byte) (a : Nat) {i : Nat} (h : i < bs.length) :
    Memory.read (Memory.writeBytes m a bs) (a + i) = some bs[i] := by
  induction bs generalizing m a i with
  | nil => simp at h
  | cons b bs ih =>
    unfold Memory.writeBytes
    cases i with
    | zero => simp [Memory.read_writeBytes_below _ bs (show a < a + 1 by omega), Memory.read_write_same]
    | succ i =>
      rw [show a + (i + 1) = (a + 1) + i by omega, ih (Memory.write m a b) (a + 1) (by simpa using h)]
      simp

/-- A pixel written reads back. -/
theorem Memory.pixelAt_writeBytes_same (m : Memory) (a : Nat) (px : Pixel) :
    Memory.pixelAt (Memory.writeBytes m a (pixelBytes px)) a = some px := by
  have h0 := Memory.read_writeBytes_in m (pixelBytes px) a (i := 0) (by simp [pixelBytes])
  have h1 := Memory.read_writeBytes_in m (pixelBytes px) a (i := 1) (by simp [pixelBytes])
  have h2 := Memory.read_writeBytes_in m (pixelBytes px) a (i := 2) (by simp [pixelBytes])
  have h3 := Memory.read_writeBytes_in m (pixelBytes px) a (i := 3) (by simp [pixelBytes])
  rw [Nat.add_zero] at h0
  simp only [Memory.pixelAt, h0, h1, h2, h3]
  rfl

/-- A pixel written leaves every pixel clear of its four bytes alone. -/
theorem Memory.pixelAt_writeBytes_other (m : Memory) {a c : Nat} (px : Pixel) (h : c + 4 ≤ a ∨ a + 4 ≤ c) :
    Memory.pixelAt (Memory.writeBytes m a (pixelBytes px)) c = Memory.pixelAt m c := by
  have hr : ∀ d, d < a ∨ a + 4 ≤ d →
      Memory.read (Memory.writeBytes m a (pixelBytes px)) d = Memory.read m d := by
    intro d hd
    rcases hd with hd | hd
    · exact Memory.read_writeBytes_below m _ hd
    · exact Memory.read_writeBytes_above m _ (by simpa [pixelBytes] using hd)
  simp only [Memory.pixelAt]
  rw [hr c (by omega), hr (c + 1) (by omega), hr (c + 2) (by omega), hr (c + 3) (by omega)]

/-! ### The canonical form -/

theorem Memory.risingFrom_write (m : Memory) (lo : Option Nat) (a : Nat) (b : Byte)
    (hlo : ∀ l, lo = some l → l < a) (h : Memory.risingFrom lo m = true) :
    Memory.risingFrom lo (Memory.write m a b) = true := by
  induction m generalizing lo with
  | nil =>
    cases lo with
    | none => rfl
    | some l => simp [Memory.write, Memory.risingFrom, hlo l rfl]
  | cons kv m ih =>
    obtain ⟨k, v⟩ := kv
    have htail : Memory.risingFrom (some k) m = true := by
      cases lo <;> simp_all [Memory.risingFrom]
    unfold Memory.write
    split
    · cases lo with
      | none => simp_all [Memory.risingFrom]
      | some l => simp_all [Memory.risingFrom]
    · split
      · rename_i hk
        subst hk
        cases lo <;> simp_all [Memory.risingFrom]
      · have hrec := ih (some k) (by intro l hl; cases hl; omega) htail
        cases lo <;> simp_all [Memory.risingFrom]

/-- Writing a byte keeps the canonical form. -/
theorem Memory.wf_write {m : Memory} (a : Nat) (b : Byte) (h : Memory.wf m = true) :
    Memory.wf (Memory.write m a b) = true :=
  Memory.risingFrom_write m none a b (by simp) h

/-- Writing bytes keeps the canonical form. -/
theorem Memory.wf_writeBytes {m : Memory} (a : Nat) (bs : List Byte) (h : Memory.wf m = true) :
    Memory.wf (Memory.writeBytes m a bs) = true := by
  induction bs generalizing m a with
  | nil => exact h
  | cons b bs ih => exact ih (a + 1) (Memory.wf_write a b h)

theorem Memory.wf_nil : Memory.wf [] = true := rfl

/-- Writing a pixel keeps the canonical form of the grid. -/
theorem State.gridWrite_wf {s : State} (c : Nat) (px : Pixel) (h : Memory.wf s.grid = true) :
    Memory.wf (s.gridWrite c px).grid = true :=
  Memory.wf_writeBytes _ _ h

/-- `Memory.bytes` gives as many bytes as asked for. -/
theorem Memory.bytes_length {m : Memory} {n a : Nat} {bs : List Byte} (h : Memory.bytes m a n = some bs) :
    bs.length = n := by
  induction n generalizing a bs with
  | zero => simp [Memory.bytes] at h; simp [h]
  | succ n ih =>
    unfold Memory.bytes at h
    split at h
    · rename_i b bs' _ hb
      simp only [Option.some.injEq] at h
      simp [← h, ih hb]
    · cases h

/-- Byte `i` of `Memory.bytes` is the byte at address `a + i`. -/
theorem Memory.bytes_get {m : Memory} {n a : Nat} {bs : List Byte} (h : Memory.bytes m a n = some bs) {i : Nat}
    (hi : i < n) : Memory.read m (a + i) = bs[i]? := by
  induction n generalizing a bs i with
  | zero => omega
  | succ n ih =>
    unfold Memory.bytes at h
    split at h
    · rename_i b bs' hr hb
      simp only [Option.some.injEq] at h
      subst h
      cases i with
      | zero => simpa using hr
      | succ i => simpa [show a + (i + 1) = a + 1 + i by omega] using ih hb (i := i) (by omega)
    · cases h

end Sys2Proof.Machine
end

