-- ==== Sys2Proof/Laws/State.lean ====
section
/-! SUPPORT. One lemma per field per named update of State, each true by rfl, so that no later proof unfolds a record
update. -/

namespace Sys2Proof.Machine

/-! ### State.raise -/

@[simp] theorem State.raise_ibuf (s : State) (k : ErrKind) : (s.raise k).ibuf = s.ibuf := rfl
@[simp] theorem State.raise_bufLen (s : State) (k : ErrKind) : (s.raise k).bufLen = s.bufLen := rfl
@[simp] theorem State.raise_width (s : State) (k : ErrKind) : (s.raise k).width = s.width := rfl
@[simp] theorem State.raise_height (s : State) (k : ErrKind) : (s.raise k).height = s.height := rfl
@[simp] theorem State.raise_channels (s : State) (k : ErrKind) : (s.raise k).channels = s.channels := rfl
@[simp] theorem State.raise_colorspace (s : State) (k : ErrKind) : (s.raise k).colorspace = s.colorspace := rfl
@[simp] theorem State.raise_byteIdx (s : State) (k : ErrKind) : (s.raise k).byteIdx = s.byteIdx := rfl
@[simp] theorem State.raise_bitOff (s : State) (k : ErrKind) : (s.raise k).bitOff = s.bitOff := rfl
@[simp] theorem State.raise_q (s : State) (k : ErrKind) : (s.raise k).q = s.q := rfl
@[simp] theorem State.raise_qRd (s : State) (k : ErrKind) : (s.raise k).qRd = s.qRd := rfl
@[simp] theorem State.raise_prev (s : State) (k : ErrKind) : (s.raise k).prev = s.prev := rfl
@[simp] theorem State.raise_cache (s : State) (k : ErrKind) : (s.raise k).cache = s.cache := rfl
@[simp] theorem State.raise_cursor (s : State) (k : ErrKind) : (s.raise k).cursor = s.cursor := rfl
@[simp] theorem State.raise_runRem (s : State) (k : ErrKind) : (s.raise k).runRem = s.runRem := rfl
@[simp] theorem State.raise_grid (s : State) (k : ErrKind) : (s.raise k).grid = s.grid := rfl
@[simp] theorem State.raise_phase (s : State) (k : ErrKind) : (s.raise k).phase = .error := rfl
@[simp] theorem State.raise_err (s : State) (k : ErrKind) : (s.raise k).err = k := rfl
@[simp] theorem State.raise_inputs (s : State) (k : ErrKind) : (s.raise k).inputs = s.inputs := rfl
@[simp] theorem State.raise_freeCtr (s : State) (k : ErrKind) : (s.raise k).freeCtr = s.freeCtr := rfl

/-! ### State.advancePc -/

@[simp] theorem State.advancePc_ibuf (s : State) (k : Nat) : (s.advancePc k).ibuf = s.ibuf := rfl
@[simp] theorem State.advancePc_bufLen (s : State) (k : Nat) : (s.advancePc k).bufLen = s.bufLen := rfl
@[simp] theorem State.advancePc_width (s : State) (k : Nat) : (s.advancePc k).width = s.width := rfl
@[simp] theorem State.advancePc_height (s : State) (k : Nat) : (s.advancePc k).height = s.height := rfl
@[simp] theorem State.advancePc_channels (s : State) (k : Nat) : (s.advancePc k).channels = s.channels := rfl
@[simp] theorem State.advancePc_colorspace (s : State) (k : Nat) : (s.advancePc k).colorspace = s.colorspace := rfl
@[simp] theorem State.advancePc_byteIdx (s : State) (k : Nat) : (s.advancePc k).byteIdx = (s.bitPos + k) / 8 := rfl
@[simp] theorem State.advancePc_bitOff (s : State) (k : Nat) : (s.advancePc k).bitOff = BitVec.ofNat 3 ((s.bitPos + k) % 8) := rfl
@[simp] theorem State.advancePc_q (s : State) (k : Nat) : (s.advancePc k).q = s.q := rfl
@[simp] theorem State.advancePc_qRd (s : State) (k : Nat) : (s.advancePc k).qRd = s.qRd := rfl
@[simp] theorem State.advancePc_prev (s : State) (k : Nat) : (s.advancePc k).prev = s.prev := rfl
@[simp] theorem State.advancePc_cache (s : State) (k : Nat) : (s.advancePc k).cache = s.cache := rfl
@[simp] theorem State.advancePc_cursor (s : State) (k : Nat) : (s.advancePc k).cursor = s.cursor := rfl
@[simp] theorem State.advancePc_runRem (s : State) (k : Nat) : (s.advancePc k).runRem = s.runRem := rfl
@[simp] theorem State.advancePc_grid (s : State) (k : Nat) : (s.advancePc k).grid = s.grid := rfl
@[simp] theorem State.advancePc_phase (s : State) (k : Nat) : (s.advancePc k).phase = s.phase := rfl
@[simp] theorem State.advancePc_err (s : State) (k : Nat) : (s.advancePc k).err = s.err := rfl
@[simp] theorem State.advancePc_inputs (s : State) (k : Nat) : (s.advancePc k).inputs = s.inputs := rfl
@[simp] theorem State.advancePc_freeCtr (s : State) (k : Nat) : (s.advancePc k).freeCtr = s.freeCtr := rfl

/-! ### State.pushChunk -/

@[simp] theorem State.pushChunk_ibuf (s : State) (i : Instr) : (s.pushChunk i).ibuf = s.ibuf := rfl
@[simp] theorem State.pushChunk_bufLen (s : State) (i : Instr) : (s.pushChunk i).bufLen = s.bufLen := rfl
@[simp] theorem State.pushChunk_width (s : State) (i : Instr) : (s.pushChunk i).width = s.width := rfl
@[simp] theorem State.pushChunk_height (s : State) (i : Instr) : (s.pushChunk i).height = s.height := rfl
@[simp] theorem State.pushChunk_channels (s : State) (i : Instr) : (s.pushChunk i).channels = s.channels := rfl
@[simp] theorem State.pushChunk_colorspace (s : State) (i : Instr) : (s.pushChunk i).colorspace = s.colorspace := rfl
@[simp] theorem State.pushChunk_byteIdx (s : State) (i : Instr) : (s.pushChunk i).byteIdx = s.byteIdx := rfl
@[simp] theorem State.pushChunk_bitOff (s : State) (i : Instr) : (s.pushChunk i).bitOff = s.bitOff := rfl
@[simp] theorem State.pushChunk_q (s : State) (i : Instr) : (s.pushChunk i).q = s.q ++ [i] := rfl
@[simp] theorem State.pushChunk_qRd (s : State) (i : Instr) : (s.pushChunk i).qRd = s.qRd := rfl
@[simp] theorem State.pushChunk_prev (s : State) (i : Instr) : (s.pushChunk i).prev = s.prev := rfl
@[simp] theorem State.pushChunk_cache (s : State) (i : Instr) : (s.pushChunk i).cache = s.cache := rfl
@[simp] theorem State.pushChunk_cursor (s : State) (i : Instr) : (s.pushChunk i).cursor = s.cursor := rfl
@[simp] theorem State.pushChunk_runRem (s : State) (i : Instr) : (s.pushChunk i).runRem = s.runRem := rfl
@[simp] theorem State.pushChunk_grid (s : State) (i : Instr) : (s.pushChunk i).grid = s.grid := rfl
@[simp] theorem State.pushChunk_phase (s : State) (i : Instr) : (s.pushChunk i).phase = s.phase := rfl
@[simp] theorem State.pushChunk_err (s : State) (i : Instr) : (s.pushChunk i).err = s.err := rfl
@[simp] theorem State.pushChunk_inputs (s : State) (i : Instr) : (s.pushChunk i).inputs = s.inputs := rfl
@[simp] theorem State.pushChunk_freeCtr (s : State) (i : Instr) : (s.pushChunk i).freeCtr = s.freeCtr := rfl

/-! ### State.advanceQ -/

@[simp] theorem State.advanceQ_ibuf (s : State) : (s.advanceQ).ibuf = s.ibuf := rfl
@[simp] theorem State.advanceQ_bufLen (s : State) : (s.advanceQ).bufLen = s.bufLen := rfl
@[simp] theorem State.advanceQ_width (s : State) : (s.advanceQ).width = s.width := rfl
@[simp] theorem State.advanceQ_height (s : State) : (s.advanceQ).height = s.height := rfl
@[simp] theorem State.advanceQ_channels (s : State) : (s.advanceQ).channels = s.channels := rfl
@[simp] theorem State.advanceQ_colorspace (s : State) : (s.advanceQ).colorspace = s.colorspace := rfl
@[simp] theorem State.advanceQ_byteIdx (s : State) : (s.advanceQ).byteIdx = s.byteIdx := rfl
@[simp] theorem State.advanceQ_bitOff (s : State) : (s.advanceQ).bitOff = s.bitOff := rfl
@[simp] theorem State.advanceQ_q (s : State) : (s.advanceQ).q = s.q := rfl
@[simp] theorem State.advanceQ_qRd (s : State) : (s.advanceQ).qRd = s.qRd + 1 := rfl
@[simp] theorem State.advanceQ_prev (s : State) : (s.advanceQ).prev = s.prev := rfl
@[simp] theorem State.advanceQ_cache (s : State) : (s.advanceQ).cache = s.cache := rfl
@[simp] theorem State.advanceQ_cursor (s : State) : (s.advanceQ).cursor = s.cursor := rfl
@[simp] theorem State.advanceQ_runRem (s : State) : (s.advanceQ).runRem = s.runRem := rfl
@[simp] theorem State.advanceQ_grid (s : State) : (s.advanceQ).grid = s.grid := rfl
@[simp] theorem State.advanceQ_phase (s : State) : (s.advanceQ).phase = s.phase := rfl
@[simp] theorem State.advanceQ_err (s : State) : (s.advanceQ).err = s.err := rfl
@[simp] theorem State.advanceQ_inputs (s : State) : (s.advanceQ).inputs = s.inputs := rfl
@[simp] theorem State.advanceQ_freeCtr (s : State) : (s.advanceQ).freeCtr = s.freeCtr := rfl

/-! ### State.gridWrite -/

@[simp] theorem State.gridWrite_ibuf (s : State) (c : Nat) (px : Pixel) : (s.gridWrite c px).ibuf = s.ibuf := rfl
@[simp] theorem State.gridWrite_bufLen (s : State) (c : Nat) (px : Pixel) : (s.gridWrite c px).bufLen = s.bufLen := rfl
@[simp] theorem State.gridWrite_width (s : State) (c : Nat) (px : Pixel) : (s.gridWrite c px).width = s.width := rfl
@[simp] theorem State.gridWrite_height (s : State) (c : Nat) (px : Pixel) : (s.gridWrite c px).height = s.height := rfl
@[simp] theorem State.gridWrite_channels (s : State) (c : Nat) (px : Pixel) : (s.gridWrite c px).channels = s.channels := rfl
@[simp] theorem State.gridWrite_colorspace (s : State) (c : Nat) (px : Pixel) : (s.gridWrite c px).colorspace = s.colorspace := rfl
@[simp] theorem State.gridWrite_byteIdx (s : State) (c : Nat) (px : Pixel) : (s.gridWrite c px).byteIdx = s.byteIdx := rfl
@[simp] theorem State.gridWrite_bitOff (s : State) (c : Nat) (px : Pixel) : (s.gridWrite c px).bitOff = s.bitOff := rfl
@[simp] theorem State.gridWrite_q (s : State) (c : Nat) (px : Pixel) : (s.gridWrite c px).q = s.q := rfl
@[simp] theorem State.gridWrite_qRd (s : State) (c : Nat) (px : Pixel) : (s.gridWrite c px).qRd = s.qRd := rfl
@[simp] theorem State.gridWrite_prev (s : State) (c : Nat) (px : Pixel) : (s.gridWrite c px).prev = s.prev := rfl
@[simp] theorem State.gridWrite_cache (s : State) (c : Nat) (px : Pixel) : (s.gridWrite c px).cache = s.cache := rfl
@[simp] theorem State.gridWrite_cursor (s : State) (c : Nat) (px : Pixel) : (s.gridWrite c px).cursor = s.cursor := rfl
@[simp] theorem State.gridWrite_runRem (s : State) (c : Nat) (px : Pixel) : (s.gridWrite c px).runRem = s.runRem := rfl
@[simp] theorem State.gridWrite_grid (s : State) (c : Nat) (px : Pixel) : (s.gridWrite c px).grid = Memory.writeBytes s.grid (s.pixelAddr c) (pixelBytes px) := rfl
@[simp] theorem State.gridWrite_phase (s : State) (c : Nat) (px : Pixel) : (s.gridWrite c px).phase = s.phase := rfl
@[simp] theorem State.gridWrite_err (s : State) (c : Nat) (px : Pixel) : (s.gridWrite c px).err = s.err := rfl
@[simp] theorem State.gridWrite_inputs (s : State) (c : Nat) (px : Pixel) : (s.gridWrite c px).inputs = s.inputs := rfl
@[simp] theorem State.gridWrite_freeCtr (s : State) (c : Nat) (px : Pixel) : (s.gridWrite c px).freeCtr = s.freeCtr := rfl

/-! ### State.advanceCursor -/

@[simp] theorem State.advanceCursor_ibuf (s : State) : (s.advanceCursor).ibuf = s.ibuf := rfl
@[simp] theorem State.advanceCursor_bufLen (s : State) : (s.advanceCursor).bufLen = s.bufLen := rfl
@[simp] theorem State.advanceCursor_width (s : State) : (s.advanceCursor).width = s.width := rfl
@[simp] theorem State.advanceCursor_height (s : State) : (s.advanceCursor).height = s.height := rfl
@[simp] theorem State.advanceCursor_channels (s : State) : (s.advanceCursor).channels = s.channels := rfl
@[simp] theorem State.advanceCursor_colorspace (s : State) : (s.advanceCursor).colorspace = s.colorspace := rfl
@[simp] theorem State.advanceCursor_byteIdx (s : State) : (s.advanceCursor).byteIdx = s.byteIdx := rfl
@[simp] theorem State.advanceCursor_bitOff (s : State) : (s.advanceCursor).bitOff = s.bitOff := rfl
@[simp] theorem State.advanceCursor_q (s : State) : (s.advanceCursor).q = s.q := rfl
@[simp] theorem State.advanceCursor_qRd (s : State) : (s.advanceCursor).qRd = s.qRd := rfl
@[simp] theorem State.advanceCursor_prev (s : State) : (s.advanceCursor).prev = s.prev := rfl
@[simp] theorem State.advanceCursor_cache (s : State) : (s.advanceCursor).cache = s.cache := rfl
@[simp] theorem State.advanceCursor_cursor (s : State) : (s.advanceCursor).cursor = s.cursor + 1 := rfl
@[simp] theorem State.advanceCursor_runRem (s : State) : (s.advanceCursor).runRem = s.runRem := rfl
@[simp] theorem State.advanceCursor_grid (s : State) : (s.advanceCursor).grid = s.grid := rfl
@[simp] theorem State.advanceCursor_phase (s : State) : (s.advanceCursor).phase = s.phase := rfl
@[simp] theorem State.advanceCursor_err (s : State) : (s.advanceCursor).err = s.err := rfl
@[simp] theorem State.advanceCursor_inputs (s : State) : (s.advanceCursor).inputs = s.inputs := rfl
@[simp] theorem State.advanceCursor_freeCtr (s : State) : (s.advanceCursor).freeCtr = s.freeCtr := rfl

/-! ### State.setCache -/

@[simp] theorem State.setCache_ibuf (s : State) (i : BitVec 6) (px : Pixel) : (s.setCache i px).ibuf = s.ibuf := rfl
@[simp] theorem State.setCache_bufLen (s : State) (i : BitVec 6) (px : Pixel) : (s.setCache i px).bufLen = s.bufLen := rfl
@[simp] theorem State.setCache_width (s : State) (i : BitVec 6) (px : Pixel) : (s.setCache i px).width = s.width := rfl
@[simp] theorem State.setCache_height (s : State) (i : BitVec 6) (px : Pixel) : (s.setCache i px).height = s.height := rfl
@[simp] theorem State.setCache_channels (s : State) (i : BitVec 6) (px : Pixel) : (s.setCache i px).channels = s.channels := rfl
@[simp] theorem State.setCache_colorspace (s : State) (i : BitVec 6) (px : Pixel) : (s.setCache i px).colorspace = s.colorspace := rfl
@[simp] theorem State.setCache_byteIdx (s : State) (i : BitVec 6) (px : Pixel) : (s.setCache i px).byteIdx = s.byteIdx := rfl
@[simp] theorem State.setCache_bitOff (s : State) (i : BitVec 6) (px : Pixel) : (s.setCache i px).bitOff = s.bitOff := rfl
@[simp] theorem State.setCache_q (s : State) (i : BitVec 6) (px : Pixel) : (s.setCache i px).q = s.q := rfl
@[simp] theorem State.setCache_qRd (s : State) (i : BitVec 6) (px : Pixel) : (s.setCache i px).qRd = s.qRd := rfl
@[simp] theorem State.setCache_prev (s : State) (i : BitVec 6) (px : Pixel) : (s.setCache i px).prev = s.prev := rfl
@[simp] theorem State.setCache_cache (s : State) (i : BitVec 6) (px : Pixel) : (s.setCache i px).cache = s.cache.set i.toNat px i.isLt := rfl
@[simp] theorem State.setCache_cursor (s : State) (i : BitVec 6) (px : Pixel) : (s.setCache i px).cursor = s.cursor := rfl
@[simp] theorem State.setCache_runRem (s : State) (i : BitVec 6) (px : Pixel) : (s.setCache i px).runRem = s.runRem := rfl
@[simp] theorem State.setCache_grid (s : State) (i : BitVec 6) (px : Pixel) : (s.setCache i px).grid = s.grid := rfl
@[simp] theorem State.setCache_phase (s : State) (i : BitVec 6) (px : Pixel) : (s.setCache i px).phase = s.phase := rfl
@[simp] theorem State.setCache_err (s : State) (i : BitVec 6) (px : Pixel) : (s.setCache i px).err = s.err := rfl
@[simp] theorem State.setCache_inputs (s : State) (i : BitVec 6) (px : Pixel) : (s.setCache i px).inputs = s.inputs := rfl
@[simp] theorem State.setCache_freeCtr (s : State) (i : BitVec 6) (px : Pixel) : (s.setCache i px).freeCtr = s.freeCtr := rfl

/-! ### State.setPrev -/

@[simp] theorem State.setPrev_ibuf (s : State) (px : Pixel) : (s.setPrev px).ibuf = s.ibuf := rfl
@[simp] theorem State.setPrev_bufLen (s : State) (px : Pixel) : (s.setPrev px).bufLen = s.bufLen := rfl
@[simp] theorem State.setPrev_width (s : State) (px : Pixel) : (s.setPrev px).width = s.width := rfl
@[simp] theorem State.setPrev_height (s : State) (px : Pixel) : (s.setPrev px).height = s.height := rfl
@[simp] theorem State.setPrev_channels (s : State) (px : Pixel) : (s.setPrev px).channels = s.channels := rfl
@[simp] theorem State.setPrev_colorspace (s : State) (px : Pixel) : (s.setPrev px).colorspace = s.colorspace := rfl
@[simp] theorem State.setPrev_byteIdx (s : State) (px : Pixel) : (s.setPrev px).byteIdx = s.byteIdx := rfl
@[simp] theorem State.setPrev_bitOff (s : State) (px : Pixel) : (s.setPrev px).bitOff = s.bitOff := rfl
@[simp] theorem State.setPrev_q (s : State) (px : Pixel) : (s.setPrev px).q = s.q := rfl
@[simp] theorem State.setPrev_qRd (s : State) (px : Pixel) : (s.setPrev px).qRd = s.qRd := rfl
@[simp] theorem State.setPrev_prev (s : State) (px : Pixel) : (s.setPrev px).prev = px := rfl
@[simp] theorem State.setPrev_cache (s : State) (px : Pixel) : (s.setPrev px).cache = s.cache := rfl
@[simp] theorem State.setPrev_cursor (s : State) (px : Pixel) : (s.setPrev px).cursor = s.cursor := rfl
@[simp] theorem State.setPrev_runRem (s : State) (px : Pixel) : (s.setPrev px).runRem = s.runRem := rfl
@[simp] theorem State.setPrev_grid (s : State) (px : Pixel) : (s.setPrev px).grid = s.grid := rfl
@[simp] theorem State.setPrev_phase (s : State) (px : Pixel) : (s.setPrev px).phase = s.phase := rfl
@[simp] theorem State.setPrev_err (s : State) (px : Pixel) : (s.setPrev px).err = s.err := rfl
@[simp] theorem State.setPrev_inputs (s : State) (px : Pixel) : (s.setPrev px).inputs = s.inputs := rfl
@[simp] theorem State.setPrev_freeCtr (s : State) (px : Pixel) : (s.setPrev px).freeCtr = s.freeCtr := rfl

/-! ### State.setRunRem -/

@[simp] theorem State.setRunRem_ibuf (s : State) (n : Nat) : (s.setRunRem n).ibuf = s.ibuf := rfl
@[simp] theorem State.setRunRem_bufLen (s : State) (n : Nat) : (s.setRunRem n).bufLen = s.bufLen := rfl
@[simp] theorem State.setRunRem_width (s : State) (n : Nat) : (s.setRunRem n).width = s.width := rfl
@[simp] theorem State.setRunRem_height (s : State) (n : Nat) : (s.setRunRem n).height = s.height := rfl
@[simp] theorem State.setRunRem_channels (s : State) (n : Nat) : (s.setRunRem n).channels = s.channels := rfl
@[simp] theorem State.setRunRem_colorspace (s : State) (n : Nat) : (s.setRunRem n).colorspace = s.colorspace := rfl
@[simp] theorem State.setRunRem_byteIdx (s : State) (n : Nat) : (s.setRunRem n).byteIdx = s.byteIdx := rfl
@[simp] theorem State.setRunRem_bitOff (s : State) (n : Nat) : (s.setRunRem n).bitOff = s.bitOff := rfl
@[simp] theorem State.setRunRem_q (s : State) (n : Nat) : (s.setRunRem n).q = s.q := rfl
@[simp] theorem State.setRunRem_qRd (s : State) (n : Nat) : (s.setRunRem n).qRd = s.qRd := rfl
@[simp] theorem State.setRunRem_prev (s : State) (n : Nat) : (s.setRunRem n).prev = s.prev := rfl
@[simp] theorem State.setRunRem_cache (s : State) (n : Nat) : (s.setRunRem n).cache = s.cache := rfl
@[simp] theorem State.setRunRem_cursor (s : State) (n : Nat) : (s.setRunRem n).cursor = s.cursor := rfl
@[simp] theorem State.setRunRem_runRem (s : State) (n : Nat) : (s.setRunRem n).runRem = BitVec.ofNat 7 n := rfl
@[simp] theorem State.setRunRem_grid (s : State) (n : Nat) : (s.setRunRem n).grid = s.grid := rfl
@[simp] theorem State.setRunRem_phase (s : State) (n : Nat) : (s.setRunRem n).phase = s.phase := rfl
@[simp] theorem State.setRunRem_err (s : State) (n : Nat) : (s.setRunRem n).err = s.err := rfl
@[simp] theorem State.setRunRem_inputs (s : State) (n : Nat) : (s.setRunRem n).inputs = s.inputs := rfl
@[simp] theorem State.setRunRem_freeCtr (s : State) (n : Nat) : (s.setRunRem n).freeCtr = s.freeCtr := rfl

/-! ### State.setPhase -/

@[simp] theorem State.setPhase_ibuf (s : State) (p : Phase) : (s.setPhase p).ibuf = s.ibuf := rfl
@[simp] theorem State.setPhase_bufLen (s : State) (p : Phase) : (s.setPhase p).bufLen = s.bufLen := rfl
@[simp] theorem State.setPhase_width (s : State) (p : Phase) : (s.setPhase p).width = s.width := rfl
@[simp] theorem State.setPhase_height (s : State) (p : Phase) : (s.setPhase p).height = s.height := rfl
@[simp] theorem State.setPhase_channels (s : State) (p : Phase) : (s.setPhase p).channels = s.channels := rfl
@[simp] theorem State.setPhase_colorspace (s : State) (p : Phase) : (s.setPhase p).colorspace = s.colorspace := rfl
@[simp] theorem State.setPhase_byteIdx (s : State) (p : Phase) : (s.setPhase p).byteIdx = s.byteIdx := rfl
@[simp] theorem State.setPhase_bitOff (s : State) (p : Phase) : (s.setPhase p).bitOff = s.bitOff := rfl
@[simp] theorem State.setPhase_q (s : State) (p : Phase) : (s.setPhase p).q = s.q := rfl
@[simp] theorem State.setPhase_qRd (s : State) (p : Phase) : (s.setPhase p).qRd = s.qRd := rfl
@[simp] theorem State.setPhase_prev (s : State) (p : Phase) : (s.setPhase p).prev = s.prev := rfl
@[simp] theorem State.setPhase_cache (s : State) (p : Phase) : (s.setPhase p).cache = s.cache := rfl
@[simp] theorem State.setPhase_cursor (s : State) (p : Phase) : (s.setPhase p).cursor = s.cursor := rfl
@[simp] theorem State.setPhase_runRem (s : State) (p : Phase) : (s.setPhase p).runRem = s.runRem := rfl
@[simp] theorem State.setPhase_grid (s : State) (p : Phase) : (s.setPhase p).grid = s.grid := rfl
@[simp] theorem State.setPhase_phase (s : State) (p : Phase) : (s.setPhase p).phase = p := rfl
@[simp] theorem State.setPhase_err (s : State) (p : Phase) : (s.setPhase p).err = s.err := rfl
@[simp] theorem State.setPhase_inputs (s : State) (p : Phase) : (s.setPhase p).inputs = s.inputs := rfl
@[simp] theorem State.setPhase_freeCtr (s : State) (p : Phase) : (s.setPhase p).freeCtr = s.freeCtr := rfl

/-! ### State.setInputs -/

@[simp] theorem State.setInputs_ibuf (s : State) (ms : List HostMove) : (s.setInputs ms).ibuf = s.ibuf := rfl
@[simp] theorem State.setInputs_bufLen (s : State) (ms : List HostMove) : (s.setInputs ms).bufLen = s.bufLen := rfl
@[simp] theorem State.setInputs_width (s : State) (ms : List HostMove) : (s.setInputs ms).width = s.width := rfl
@[simp] theorem State.setInputs_height (s : State) (ms : List HostMove) : (s.setInputs ms).height = s.height := rfl
@[simp] theorem State.setInputs_channels (s : State) (ms : List HostMove) : (s.setInputs ms).channels = s.channels := rfl
@[simp] theorem State.setInputs_colorspace (s : State) (ms : List HostMove) : (s.setInputs ms).colorspace = s.colorspace := rfl
@[simp] theorem State.setInputs_byteIdx (s : State) (ms : List HostMove) : (s.setInputs ms).byteIdx = s.byteIdx := rfl
@[simp] theorem State.setInputs_bitOff (s : State) (ms : List HostMove) : (s.setInputs ms).bitOff = s.bitOff := rfl
@[simp] theorem State.setInputs_q (s : State) (ms : List HostMove) : (s.setInputs ms).q = s.q := rfl
@[simp] theorem State.setInputs_qRd (s : State) (ms : List HostMove) : (s.setInputs ms).qRd = s.qRd := rfl
@[simp] theorem State.setInputs_prev (s : State) (ms : List HostMove) : (s.setInputs ms).prev = s.prev := rfl
@[simp] theorem State.setInputs_cache (s : State) (ms : List HostMove) : (s.setInputs ms).cache = s.cache := rfl
@[simp] theorem State.setInputs_cursor (s : State) (ms : List HostMove) : (s.setInputs ms).cursor = s.cursor := rfl
@[simp] theorem State.setInputs_runRem (s : State) (ms : List HostMove) : (s.setInputs ms).runRem = s.runRem := rfl
@[simp] theorem State.setInputs_grid (s : State) (ms : List HostMove) : (s.setInputs ms).grid = s.grid := rfl
@[simp] theorem State.setInputs_phase (s : State) (ms : List HostMove) : (s.setInputs ms).phase = s.phase := rfl
@[simp] theorem State.setInputs_err (s : State) (ms : List HostMove) : (s.setInputs ms).err = s.err := rfl
@[simp] theorem State.setInputs_inputs (s : State) (ms : List HostMove) : (s.setInputs ms).inputs = ms := rfl
@[simp] theorem State.setInputs_freeCtr (s : State) (ms : List HostMove) : (s.setInputs ms).freeCtr = s.freeCtr := rfl

/-! ### State.loadHeader -/

@[simp] theorem State.loadHeader_ibuf (s : State) (h : Header) : (s.loadHeader h).ibuf = s.ibuf := rfl
@[simp] theorem State.loadHeader_bufLen (s : State) (h : Header) : (s.loadHeader h).bufLen = s.bufLen := rfl
@[simp] theorem State.loadHeader_width (s : State) (h : Header) : (s.loadHeader h).width = h.width := rfl
@[simp] theorem State.loadHeader_height (s : State) (h : Header) : (s.loadHeader h).height = h.height := rfl
@[simp] theorem State.loadHeader_channels (s : State) (h : Header) : (s.loadHeader h).channels = h.channels := rfl
@[simp] theorem State.loadHeader_colorspace (s : State) (h : Header) : (s.loadHeader h).colorspace = h.colorspace := rfl
@[simp] theorem State.loadHeader_byteIdx (s : State) (h : Header) : (s.loadHeader h).byteIdx = Config.hdrLen := rfl
@[simp] theorem State.loadHeader_bitOff (s : State) (h : Header) : (s.loadHeader h).bitOff = 0 := rfl
@[simp] theorem State.loadHeader_q (s : State) (h : Header) : (s.loadHeader h).q = s.q := rfl
@[simp] theorem State.loadHeader_qRd (s : State) (h : Header) : (s.loadHeader h).qRd = s.qRd := rfl
@[simp] theorem State.loadHeader_prev (s : State) (h : Header) : (s.loadHeader h).prev = s.prev := rfl
@[simp] theorem State.loadHeader_cache (s : State) (h : Header) : (s.loadHeader h).cache = s.cache := rfl
@[simp] theorem State.loadHeader_cursor (s : State) (h : Header) : (s.loadHeader h).cursor = s.cursor := rfl
@[simp] theorem State.loadHeader_runRem (s : State) (h : Header) : (s.loadHeader h).runRem = s.runRem := rfl
@[simp] theorem State.loadHeader_grid (s : State) (h : Header) : (s.loadHeader h).grid = s.grid := rfl
@[simp] theorem State.loadHeader_phase (s : State) (h : Header) : (s.loadHeader h).phase = .parse := rfl
@[simp] theorem State.loadHeader_err (s : State) (h : Header) : (s.loadHeader h).err = s.err := rfl
@[simp] theorem State.loadHeader_inputs (s : State) (h : Header) : (s.loadHeader h).inputs = s.inputs := rfl
@[simp] theorem State.loadHeader_freeCtr (s : State) (h : Header) : (s.loadHeader h).freeCtr = s.freeCtr := rfl

/-! ### State.start -/

@[simp] theorem State.start_ibuf (s : State) : (s.start).ibuf = s.ibuf := rfl
@[simp] theorem State.start_bufLen (s : State) : (s.start).bufLen = s.bufLen := rfl
@[simp] theorem State.start_width (s : State) : (s.start).width = Config.freeWidth s.freeCtr := rfl
@[simp] theorem State.start_height (s : State) : (s.start).height = Config.freeHeight s.freeCtr := rfl
@[simp] theorem State.start_channels (s : State) : (s.start).channels = Config.freeChannels s.freeCtr := rfl
@[simp] theorem State.start_colorspace (s : State) : (s.start).colorspace = Config.freeColorspace s.freeCtr := rfl
@[simp] theorem State.start_byteIdx (s : State) : (s.start).byteIdx = 0 := rfl
@[simp] theorem State.start_bitOff (s : State) : (s.start).bitOff = 0 := rfl
@[simp] theorem State.start_q (s : State) : (s.start).q = [] := rfl
@[simp] theorem State.start_qRd (s : State) : (s.start).qRd = 0 := rfl
@[simp] theorem State.start_prev (s : State) : (s.start).prev = Pixel.prevInit := rfl
@[simp] theorem State.start_cache (s : State) : (s.start).cache = Vector.replicate 64 Pixel.blank := rfl
@[simp] theorem State.start_cursor (s : State) : (s.start).cursor = 0 := rfl
@[simp] theorem State.start_runRem (s : State) : (s.start).runRem = 0 := rfl
@[simp] theorem State.start_grid (s : State) : (s.start).grid = [] := rfl
@[simp] theorem State.start_phase (s : State) : (s.start).phase = .hdr := rfl
@[simp] theorem State.start_err (s : State) : (s.start).err = .noError := rfl
@[simp] theorem State.start_inputs (s : State) : (s.start).inputs = s.inputs := rfl
@[simp] theorem State.start_freeCtr (s : State) : (s.start).freeCtr = s.freeCtr + 1 := rfl

/-! ### State.hardReset -/

@[simp] theorem State.hardReset_ibuf (s : State) : (s.hardReset).ibuf = State.reset.ibuf := rfl
@[simp] theorem State.hardReset_bufLen (s : State) : (s.hardReset).bufLen = State.reset.bufLen := rfl
@[simp] theorem State.hardReset_width (s : State) : (s.hardReset).width = State.reset.width := rfl
@[simp] theorem State.hardReset_height (s : State) : (s.hardReset).height = State.reset.height := rfl
@[simp] theorem State.hardReset_channels (s : State) : (s.hardReset).channels = State.reset.channels := rfl
@[simp] theorem State.hardReset_colorspace (s : State) : (s.hardReset).colorspace = State.reset.colorspace := rfl
@[simp] theorem State.hardReset_byteIdx (s : State) : (s.hardReset).byteIdx = State.reset.byteIdx := rfl
@[simp] theorem State.hardReset_bitOff (s : State) : (s.hardReset).bitOff = State.reset.bitOff := rfl
@[simp] theorem State.hardReset_q (s : State) : (s.hardReset).q = State.reset.q := rfl
@[simp] theorem State.hardReset_qRd (s : State) : (s.hardReset).qRd = State.reset.qRd := rfl
@[simp] theorem State.hardReset_prev (s : State) : (s.hardReset).prev = State.reset.prev := rfl
@[simp] theorem State.hardReset_cache (s : State) : (s.hardReset).cache = State.reset.cache := rfl
@[simp] theorem State.hardReset_cursor (s : State) : (s.hardReset).cursor = State.reset.cursor := rfl
@[simp] theorem State.hardReset_runRem (s : State) : (s.hardReset).runRem = State.reset.runRem := rfl
@[simp] theorem State.hardReset_grid (s : State) : (s.hardReset).grid = State.reset.grid := rfl
@[simp] theorem State.hardReset_phase (s : State) : (s.hardReset).phase = State.reset.phase := rfl
@[simp] theorem State.hardReset_err (s : State) : (s.hardReset).err = State.reset.err := rfl
@[simp] theorem State.hardReset_inputs (s : State) : (s.hardReset).inputs = s.inputs := rfl
@[simp] theorem State.hardReset_freeCtr (s : State) : (s.hardReset).freeCtr = s.freeCtr := rfl

/-! ### State.discard -/

@[simp] theorem State.discard_ibuf (s : State) : (s.discard).ibuf = s.ibuf := rfl
@[simp] theorem State.discard_bufLen (s : State) : (s.discard).bufLen = s.bufLen := rfl
@[simp] theorem State.discard_width (s : State) : (s.discard).width = s.width := rfl
@[simp] theorem State.discard_height (s : State) : (s.discard).height = s.height := rfl
@[simp] theorem State.discard_channels (s : State) : (s.discard).channels = s.channels := rfl
@[simp] theorem State.discard_colorspace (s : State) : (s.discard).colorspace = s.colorspace := rfl
@[simp] theorem State.discard_byteIdx (s : State) : (s.discard).byteIdx = Config.freeByteIdx s.freeCtr := rfl
@[simp] theorem State.discard_bitOff (s : State) : (s.discard).bitOff = Config.freeBitOff s.freeCtr := rfl
@[simp] theorem State.discard_q (s : State) : (s.discard).q = Config.freeQueue s.freeCtr := rfl
@[simp] theorem State.discard_qRd (s : State) : (s.discard).qRd = Config.freeQRd s.freeCtr := rfl
@[simp] theorem State.discard_prev (s : State) : (s.discard).prev = Config.freePrev s.freeCtr := rfl
@[simp] theorem State.discard_cache (s : State) : (s.discard).cache = Config.freeCache s.freeCtr := rfl
@[simp] theorem State.discard_cursor (s : State) : (s.discard).cursor = Config.freeCursor s.freeCtr := rfl
@[simp] theorem State.discard_runRem (s : State) : (s.discard).runRem = s.runRem := rfl
@[simp] theorem State.discard_grid (s : State) : (s.discard).grid = s.grid := rfl
@[simp] theorem State.discard_phase (s : State) : (s.discard).phase = s.phase := rfl
@[simp] theorem State.discard_err (s : State) : (s.discard).err = s.err := rfl
@[simp] theorem State.discard_inputs (s : State) : (s.discard).inputs = s.inputs := rfl
@[simp] theorem State.discard_freeCtr (s : State) : (s.discard).freeCtr = s.freeCtr + 1 := rfl

/-! ### State.setBufLen -/

@[simp] theorem State.setBufLen_ibuf (s : State) (n : Nat) : (s.setBufLen n).ibuf = s.ibuf := rfl
@[simp] theorem State.setBufLen_bufLen (s : State) (n : Nat) : (s.setBufLen n).bufLen = n := rfl
@[simp] theorem State.setBufLen_width (s : State) (n : Nat) : (s.setBufLen n).width = s.width := rfl
@[simp] theorem State.setBufLen_height (s : State) (n : Nat) : (s.setBufLen n).height = s.height := rfl
@[simp] theorem State.setBufLen_channels (s : State) (n : Nat) : (s.setBufLen n).channels = s.channels := rfl
@[simp] theorem State.setBufLen_colorspace (s : State) (n : Nat) : (s.setBufLen n).colorspace = s.colorspace := rfl
@[simp] theorem State.setBufLen_byteIdx (s : State) (n : Nat) : (s.setBufLen n).byteIdx = s.byteIdx := rfl
@[simp] theorem State.setBufLen_bitOff (s : State) (n : Nat) : (s.setBufLen n).bitOff = s.bitOff := rfl
@[simp] theorem State.setBufLen_q (s : State) (n : Nat) : (s.setBufLen n).q = s.q := rfl
@[simp] theorem State.setBufLen_qRd (s : State) (n : Nat) : (s.setBufLen n).qRd = s.qRd := rfl
@[simp] theorem State.setBufLen_prev (s : State) (n : Nat) : (s.setBufLen n).prev = s.prev := rfl
@[simp] theorem State.setBufLen_cache (s : State) (n : Nat) : (s.setBufLen n).cache = s.cache := rfl
@[simp] theorem State.setBufLen_cursor (s : State) (n : Nat) : (s.setBufLen n).cursor = s.cursor := rfl
@[simp] theorem State.setBufLen_runRem (s : State) (n : Nat) : (s.setBufLen n).runRem = s.runRem := rfl
@[simp] theorem State.setBufLen_grid (s : State) (n : Nat) : (s.setBufLen n).grid = s.grid := rfl
@[simp] theorem State.setBufLen_phase (s : State) (n : Nat) : (s.setBufLen n).phase = s.phase := rfl
@[simp] theorem State.setBufLen_err (s : State) (n : Nat) : (s.setBufLen n).err = s.err := rfl
@[simp] theorem State.setBufLen_inputs (s : State) (n : Nat) : (s.setBufLen n).inputs = s.inputs := rfl
@[simp] theorem State.setBufLen_freeCtr (s : State) (n : Nat) : (s.setBufLen n).freeCtr = s.freeCtr := rfl

/-! ### State.storeInput -/

@[simp] theorem State.storeInput_ibuf (s : State) (a : Nat) (b : Byte) : (s.storeInput a b).ibuf = Memory.write s.ibuf a b := rfl
@[simp] theorem State.storeInput_bufLen (s : State) (a : Nat) (b : Byte) : (s.storeInput a b).bufLen = s.bufLen := rfl
@[simp] theorem State.storeInput_width (s : State) (a : Nat) (b : Byte) : (s.storeInput a b).width = s.width := rfl
@[simp] theorem State.storeInput_height (s : State) (a : Nat) (b : Byte) : (s.storeInput a b).height = s.height := rfl
@[simp] theorem State.storeInput_channels (s : State) (a : Nat) (b : Byte) : (s.storeInput a b).channels = s.channels := rfl
@[simp] theorem State.storeInput_colorspace (s : State) (a : Nat) (b : Byte) : (s.storeInput a b).colorspace = s.colorspace := rfl
@[simp] theorem State.storeInput_byteIdx (s : State) (a : Nat) (b : Byte) : (s.storeInput a b).byteIdx = s.byteIdx := rfl
@[simp] theorem State.storeInput_bitOff (s : State) (a : Nat) (b : Byte) : (s.storeInput a b).bitOff = s.bitOff := rfl
@[simp] theorem State.storeInput_q (s : State) (a : Nat) (b : Byte) : (s.storeInput a b).q = s.q := rfl
@[simp] theorem State.storeInput_qRd (s : State) (a : Nat) (b : Byte) : (s.storeInput a b).qRd = s.qRd := rfl
@[simp] theorem State.storeInput_prev (s : State) (a : Nat) (b : Byte) : (s.storeInput a b).prev = s.prev := rfl
@[simp] theorem State.storeInput_cache (s : State) (a : Nat) (b : Byte) : (s.storeInput a b).cache = s.cache := rfl
@[simp] theorem State.storeInput_cursor (s : State) (a : Nat) (b : Byte) : (s.storeInput a b).cursor = s.cursor := rfl
@[simp] theorem State.storeInput_runRem (s : State) (a : Nat) (b : Byte) : (s.storeInput a b).runRem = s.runRem := rfl
@[simp] theorem State.storeInput_grid (s : State) (a : Nat) (b : Byte) : (s.storeInput a b).grid = s.grid := rfl
@[simp] theorem State.storeInput_phase (s : State) (a : Nat) (b : Byte) : (s.storeInput a b).phase = s.phase := rfl
@[simp] theorem State.storeInput_err (s : State) (a : Nat) (b : Byte) : (s.storeInput a b).err = s.err := rfl
@[simp] theorem State.storeInput_inputs (s : State) (a : Nat) (b : Byte) : (s.storeInput a b).inputs = s.inputs := rfl
@[simp] theorem State.storeInput_freeCtr (s : State) (a : Nat) (b : Byte) : (s.storeInput a b).freeCtr = s.freeCtr := rfl

/-! ### Views of the updated state -/

@[simp] theorem State.npix_raise (s : State) (k : ErrKind) : (s.raise k).npix = s.npix := rfl
@[simp] theorem State.npix_advanceQ (s : State) : s.advanceQ.npix = s.npix := rfl
@[simp] theorem State.npix_gridWrite (s : State) (c : Nat) (px : Pixel) : (s.gridWrite c px).npix = s.npix := rfl
@[simp] theorem State.npix_advanceCursor (s : State) : s.advanceCursor.npix = s.npix := rfl
@[simp] theorem State.npix_setCache (s : State) (i : BitVec 6) (px : Pixel) : (s.setCache i px).npix = s.npix := rfl
@[simp] theorem State.npix_setPrev (s : State) (px : Pixel) : (s.setPrev px).npix = s.npix := rfl
@[simp] theorem State.npix_setRunRem (s : State) (n : Nat) : (s.setRunRem n).npix = s.npix := rfl
@[simp] theorem State.npix_setPhase (s : State) (p : Phase) : (s.setPhase p).npix = s.npix := rfl
@[simp] theorem State.npix_setInputs (s : State) (ms : List HostMove) : (s.setInputs ms).npix = s.npix := rfl
@[simp] theorem State.npix_pushChunk (s : State) (i : Instr) : (s.pushChunk i).npix = s.npix := rfl
@[simp] theorem State.npix_advancePc (s : State) (k : Nat) : (s.advancePc k).npix = s.npix := rfl
@[simp] theorem State.npix_setBufLen (s : State) (n : Nat) : (s.setBufLen n).npix = s.npix := rfl
@[simp] theorem State.npix_storeInput (s : State) (a : Nat) (b : Byte) : (s.storeInput a b).npix = s.npix := rfl
@[simp] theorem State.npix_discard (s : State) : s.discard.npix = s.npix := rfl
@[simp] theorem State.bitPos_pushChunk (s : State) (i : Instr) : (s.pushChunk i).bitPos = s.bitPos := rfl
@[simp] theorem State.remBits_setPhase (s : State) (p : Phase) : (s.setPhase p).remBits = s.remBits := rfl
@[simp] theorem State.remBits_setInputs (s : State) (ms : List HostMove) : (s.setInputs ms).remBits = s.remBits := rfl
@[simp] theorem busy_setInputs (s : State) (ms : List HostMove) : busy (s.setInputs ms) = busy s := rfl

end Sys2Proof.Machine
end

