-- ==== Sys2Proof/Laws/Ops.lean ====
section
/-! SUPPORT. What each shared operation can do, said once, for provers to cite instead of unfolding it. -/

namespace Sys2Proof.Machine

/-- GridWrite(c) stores at byte 4c, whatever the width: row * WIDTH + col is c again. -/
theorem State.pixelAddr_eq (s : State) (c : Nat) : s.pixelAddr c = 4 * c := by
  unfold State.pixelAddr State.entryAddr
  rw [Nat.mul_comm (c / _), Nat.div_add_mod]

/-- NPIX is the exact product (10_state.md R12). -/
theorem State.npix_toNat (s : State) : s.npix.toNat = s.width.toNat * s.height.toNat := by
  have hw := s.width.isLt
  have hh := s.height.isLt
  have hle : s.width.toNat * s.height.toNat ≤ (2 ^ 32 - 1) * (2 ^ 32 - 1) :=
    Nat.mul_le_mul (by omega) (by omega)
  unfold State.npix
  simp only [BitVec.truncate_eq_setWidth, BitVec.toNat_mul, BitVec.toNat_setWidth]
  rw [Nat.mod_eq_of_lt (a := s.width.toNat) (by omega), Nat.mod_eq_of_lt (a := s.height.toNat) (by omega)]
  exact Nat.mod_eq_of_lt (by omega)

theorem State.full_iff (s : State) : s.full = true ↔ s.npix.toNat ≤ s.cursor.toNat := by
  simp [State.full, BitVec.le_def]

theorem State.not_full_iff (s : State) : s.full = false ↔ s.cursor.toNat < s.npix.toNat := by
  rw [← Bool.not_eq_true, State.full_iff, Nat.not_le]

/-- While there is room, the cursor's next value does not wrap (10_state.md R17). -/
theorem State.cursor_succ_toNat {s : State} (h : s.cursor.toNat < s.npix.toNat) :
    (s.cursor + 1).toNat = s.cursor.toNat + 1 := by
  have hn := s.npix.isLt
  rw [BitVec.toNat_add, show (1 : BitVec 64).toNat = 1 from rfl]
  exact Nat.mod_eq_of_lt (by omega)

/-! ### emit -/

/-- The state `emit` leaves when there is room. -/
def emitted (new : Pixel) (updateCache : Bool) (s : State) : State :=
  { s with
    grid := Memory.writeBytes s.grid (s.pixelAddr s.cursor.toNat) (pixelBytes new)
    cursor := s.cursor + 1
    cache := if updateCache then s.cache.set (pixelHash new).toNat new (pixelHash new).isLt else s.cache
    prev := new }

/-- Everything `emit` can do: with no room nothing at all, else its four actions. -/
theorem emit_eq (new : Pixel) (u : Bool) (s : State) :
    emit new u s = if s.full then .failed .bufferOverrun s else .ok (emitted new u s) := by
  cases u <;> rfl

/-- A chunk that emits: with room, the next state; without, error entry. -/
theorem emit_settle (new : Pixel) (u : Bool) (s : State) :
    (emit new u s).settle =
      if s.full then .next (s.raise .bufferOverrun) else .next (emitted new u s).advanceQ := by
  rw [emit_eq]
  split <;> rfl

/-! ### RUN's loop -/

/-- The loop changes GRID, CURSOR and RUN_REM alone, whether it completes or not. -/
theorem runWrites_frame (n : Nat) (s : State) :
    ∃ g c r, runWrites n s = .ok { s with grid := g, cursor := c, runRem := r } ∨
      runWrites n s = .failed .bufferOverrun { s with grid := g, cursor := c, runRem := r } := by
  induction n generalizing s with
  | zero => exact ⟨s.grid, s.cursor, s.runRem, Or.inl rfl⟩
  | succ n ih =>
    unfold runWrites
    split
    · exact ⟨s.grid, s.cursor, s.runRem, Or.inr rfl⟩
    · exact ih _

/-- The loop completes exactly when all its writes have room; the cursor then has advanced by their number. -/
theorem runWrites_ok {n : Nat} {s : State} (h : s.cursor.toNat + n ≤ s.npix.toNat) :
    ∃ g r, runWrites n s = .ok { s with grid := g, cursor := s.cursor + BitVec.ofNat 64 n, runRem := r } ∧
      (0 < n → r = 0) ∧
      (∀ j, j < n → Memory.pixelAt g (4 * (s.cursor.toNat + j)) = some s.prev) ∧
      (∀ a, (a < 4 * s.cursor.toNat ∨ 4 * (s.cursor.toNat + n) ≤ a) → Memory.read g a = Memory.read s.grid a) := by
  induction n generalizing s with
  | zero => exact ⟨s.grid, s.runRem, by simp [runWrites], by simp, by simp, by simp⟩
  | succ n ih =>
    have hroom : s.cursor.toNat < s.npix.toNat := by omega
    have hcur := State.cursor_succ_toNat hroom
    unfold runWrites
    rw [(State.not_full_iff s).2 hroom]
    simp only [Bool.false_eq_true, if_false]
    obtain ⟨g, r, heq, hr, hin, hout⟩ := ih
      (s := ((s.gridWrite s.cursor.toNat s.prev).advanceCursor).setRunRem n) (by simp; omega)
    simp only [State.setRunRem_cursor, State.advanceCursor_cursor, State.gridWrite_cursor, State.setRunRem_prev,
      State.advanceCursor_prev, State.gridWrite_prev, State.setRunRem_grid, State.advanceCursor_grid,
      State.gridWrite_grid, hcur, State.pixelAddr_eq] at heq hin hout
    refine ⟨g, r, ?_, ?_, ?_, ?_⟩
    · rw [heq]
      congr 1
      simp only [State.setRunRem, State.advanceCursor, State.gridWrite]
      congr 1
      rw [BitVec.add_assoc]
      congr 1
      apply BitVec.eq_of_toNat_eq
      simp [BitVec.toNat_add, Nat.add_comm]
    · intro _
      rcases Nat.eq_zero_or_pos n with h0 | h0
      · subst h0
        simp only [runWrites, Writes.ok.injEq] at heq
        have := congrArg State.runRem heq
        simpa using this.symm
      · exact hr h0
    · intro j hj
      cases j with
      | zero =>
        have hpx := Memory.pixelAt_writeBytes_same s.grid (4 * s.cursor.toNat) s.prev
        rw [Nat.add_zero, ← hpx]
        simp only [Memory.pixelAt]
        rw [hout _ (by omega), hout _ (by omega), hout _ (by omega), hout _ (by omega)]
      | succ j =>
        rw [show s.cursor.toNat + (j + 1) = s.cursor.toNat + 1 + j by omega]
        exact hin j (by omega)
    · intro a ha
      rw [hout a (by omega)]
      rcases ha with ha | ha
      · exact Memory.read_writeBytes_below _ _ ha
      · exact Memory.read_writeBytes_above _ _ (by simp [pixelBytes]; omega)

/-- The loop fails when some write finds no room; the writes before it have landed. -/
theorem runWrites_failed {n : Nat} {s : State} (h : s.npix.toNat < s.cursor.toNat + n) (hn : 0 < n) :
    ∃ t, runWrites n s = .failed .bufferOverrun t ∧ t.cursor.toNat = max s.cursor.toNat s.npix.toNat ∧
      (∀ a, (a < 4 * s.cursor.toNat ∨ 4 * max s.cursor.toNat s.npix.toNat ≤ a) →
        Memory.read t.grid a = Memory.read s.grid a) := by
  induction n generalizing s with
  | zero => omega
  | succ n ih =>
    unfold runWrites
    by_cases hfull : s.full = true
    · have hle := (State.full_iff s).1 hfull
      rw [hfull]
      exact ⟨s, rfl, by omega, fun a _ => rfl⟩
    · have hroom := (State.not_full_iff s).1 (by simpa using hfull)
      have hcur := State.cursor_succ_toNat hroom
      rw [(State.not_full_iff s).2 hroom]
      simp only [Bool.false_eq_true, if_false]
      obtain ⟨t, heq, hc, hout⟩ := ih
        (s := ((s.gridWrite s.cursor.toNat s.prev).advanceCursor).setRunRem n) (by simp; omega) (by omega)
      simp only [State.setRunRem_cursor, State.advanceCursor_cursor, State.gridWrite_cursor, State.setRunRem_grid,
        State.advanceCursor_grid, State.gridWrite_grid, State.npix_setRunRem, State.npix_advanceCursor,
        State.npix_gridWrite, hcur, State.pixelAddr_eq] at heq hc hout
      refine ⟨t, heq, by omega, ?_⟩
      intro a ha
      rw [hout a (by omega)]
      rcases ha with ha | ha
      · exact Memory.read_writeBytes_below _ _ ha
      · exact Memory.read_writeBytes_above _ _ (by simp [pixelBytes]; omega)

/-- The loop keeps the canonical form of the grid. -/
theorem runWrites_wf (n : Nat) {s t : State} (hwf : Memory.wf s.grid = true)
    (h : runWrites n s = .ok t ∨ ∃ k, runWrites n s = .failed k t) : Memory.wf t.grid = true := by
  induction n generalizing s with
  | zero =>
    rcases h with h | ⟨k, h⟩
    · simp only [runWrites, Writes.ok.injEq] at h; exact h ▸ hwf
    · simp [runWrites] at h
  | succ n ih =>
    unfold runWrites at h
    split at h
    · rcases h with h | ⟨k, h⟩
      · cases h
      · simp only [Writes.failed.injEq] at h; exact h.2 ▸ hwf
    · exact ih (s := ((s.gridWrite s.cursor.toNat s.prev).advanceCursor).setRunRem n)
        (State.gridWrite_wf (s := s) _ _ hwf) h

/-! ### START, error entry, the end of a decode -/

/-- Error entry changes ERR.CODE and PHASE and nothing else (60_exceptions.md R176). -/
theorem State.raise_eq (s : State) (k : ErrKind) : s.raise k = { s with err := k, phase := .error } := rfl

/-- START forgets everything of the last decode but IBUF, BUF_LEN and the model's own fields. -/
theorem State.start_eq_of_same {s t : State} (hi : s.ibuf = t.ibuf) (hl : s.bufLen = t.bufLen)
    (hin : s.inputs = t.inputs) (hf : s.freeCtr = t.freeCtr) : s.start = t.start := by
  simp only [State.start, hi, hl, hin, hf]

end Sys2Proof.Machine
end

