-- ==== Sys2Proof/Laws/PerInstr.lean ====
section
/-! SUPPORT. The family of statements made per instruction: the shape of each chunk's encoding. -/

/-- The encoding of a chunk is as long as its kind needs, and the first byte of a well-formed chunk's encoding names its
kind (spec 30_encoding.md R61, R68). -/
def Sys2Proof.Laws.EncodingShape.Statement (i : Sys2Proof.Instr) : Prop :=
  8 * (Sys2Proof.encode i).length = i.kind.need ∧
  (i.WellFormed → ∃ b bs, Sys2Proof.encode i = b :: bs ∧ Sys2Proof.kindOf b = some i.kind)

namespace Sys2Proof.Laws

theorem EncodingShape.rgb (r g b : Byte) : EncodingShape.Statement (.rgb r g b) := ⟨rfl, kindOf_encode⟩

theorem EncodingShape.rgba (r g b a : Byte) : EncodingShape.Statement (.rgba r g b a) := ⟨rfl, kindOf_encode⟩

theorem EncodingShape.index (slot : BitVec 6) : EncodingShape.Statement (.index slot) := ⟨rfl, kindOf_encode⟩

theorem EncodingShape.diff (dr dg db : BitVec 2) : EncodingShape.Statement (.diff dr dg db) := ⟨rfl, kindOf_encode⟩

theorem EncodingShape.luma (dg : BitVec 6) (drDg dbDg : BitVec 4) : EncodingShape.Statement (.luma dg drDg dbDg) :=
  ⟨rfl, kindOf_encode⟩

theorem EncodingShape.run (run : BitVec 6) : EncodingShape.Statement (.run run) := ⟨rfl, kindOf_encode⟩

end Sys2Proof.Laws
end

