-- ==== Sys2Proof/Laws/Step.lean ====
section
/-! SUPPORT. The inversion lemmas: what each stage and each step can answer when it answers a next state. Every invariant is
derived from these, without unfolding the step function again. -/

namespace Sys2Proof.Machine

/-- The decoder never refuses with UnknownChunkTag: its dispatch is total. -/
theorem decodeBits_ne_unknown (bs : List Bool) : decodeBits bs ≠ .error .unknownChunkTag := by
  rcases decodeBits_cases bs with ⟨_, h⟩ | ⟨k, _, _, h⟩ <;> rw [h]
  · simp
  · split <;> simp

/-- At a byte boundary the stream's bits are the bits of the bytes there. -/
theorem State.streamBits_bytes {s : State} {n a : Nat} {bs : List Byte} (h : Memory.bytes s.ibuf a n = some bs) :
    s.streamBits (8 * a) (8 * n) = .ok (bytesBits bs) := by
  induction n generalizing a bs with
  | zero =>
    simp only [Memory.bytes, Option.some.injEq] at h
    subst h
    rfl
  | succ n ih =>
    unfold Memory.bytes at h
    split at h
    · rename_i b bs' hr hb
      simp only [Option.some.injEq] at h
      subst h
      have hd : ∀ k, k < 8 → (8 * a + k) / 8 = a ∧ (8 * a + k) % 8 = k := by omega
      have hbit : ∀ k, k < 8 → s.streamBit (8 * a + k) = .ok (b.getLsbD (7 - k)) := by
        intro k hk
        unfold State.streamBit
        rw [(hd k hk).1, (hd k hk).2, hr]
      have hrest := ih hb
      rw [show 8 * (a + 1) = 8 * a + 7 + 1 by omega] at hrest
      have h0 := hbit 0 (by omega)
      have h1 := hbit 1 (by omega)
      have h2 := hbit 2 (by omega)
      have h3 := hbit 3 (by omega)
      have h4 := hbit 4 (by omega)
      have h5 := hbit 5 (by omega)
      have h6 := hbit 6 (by omega)
      have h7 := hbit 7 (by omega)
      rw [Nat.add_zero] at h0
      rw [show 8 * (n + 1) = 8 * n + 1 + 1 + 1 + 1 + 1 + 1 + 1 + 1 by omega]
      simp only [State.streamBits, Nat.add_assoc] at hrest ⊢
      simp only [Nat.reduceAdd] at hrest ⊢
      simp only [h0, h1, h2, h3, h4, h5, h6, h7, hrest]
      rfl
    · cases h

/-- A prefix of bytes that are all there is there. -/
theorem Memory.bytes_take {m : Memory} {n a k : Nat} {bs : List Byte} (h : Memory.bytes m a n = some bs) (hk : k ≤ n) :
    Memory.bytes m a k = some (bs.take k) := by
  induction n generalizing a k bs with
  | zero =>
    obtain rfl : k = 0 := by omega
    simp [Memory.bytes]
  | succ n ih =>
    unfold Memory.bytes at h
    split at h
    · rename_i b bs' hr hb
      simp only [Option.some.injEq] at h
      subst h
      cases k with
      | zero => simp [Memory.bytes]
      | succ k => simp [Memory.bytes, hr, ih hb (k := k) (by omega)]
    · cases h

/-- A suffix of bytes that are all there is there. -/
theorem Memory.bytes_drop {m : Memory} {n a k : Nat} {bs : List Byte} (h : Memory.bytes m a n = some bs) (hk : k ≤ n) :
    Memory.bytes m (a + k) (n - k) = some (bs.drop k) := by
  induction k generalizing a n bs with
  | zero => simpa using h
  | succ k ih =>
    cases n with
    | zero => omega
    | succ n =>
      unfold Memory.bytes at h
      split at h
      · rename_i b bs' hr hb
        simp only [Option.some.injEq] at h
        subst h
        simpa [show a + (k + 1) = a + 1 + k by omega] using ih hb (by omega)
      · cases h

/-- The header stage: an error of its own, or the header loaded. -/
theorem headerStage_cases {p : Params} {s t : State} (h : headerStage p s = .next t) :
    (∃ k, t = s.raise k ∧ (k = .truncated ∨ k = .badSignature)) ∨
    ∃ hd, t = s.loadHeader hd ∧ s.readHeader = .ok hd ∧ (s.loadHeader hd).npix.toNat ≤ p.gridCap ∧ 14 ≤ s.bufLen := by
  unfold headerStage at h
  repeat' split at h
  all_goals cases h
  · exact .inl ⟨_, rfl, by simp⟩
  · exact .inl ⟨_, rfl, by simp⟩
  · exact .inl ⟨_, rfl, by simp⟩
  · rename_i hlen _ _ hr hcap
    exact .inr ⟨_, rfl, hr, by omega, by simpa [Config.hdrLen] using hlen⟩

/-- An iteration of the parser's loop: Truncated, or a chunk accepted. -/
theorem parseStep_cases {s t : State} (h : parseStep s = .next t) :
    t = s.raise .truncated ∨
    ∃ i bits rest, s.chunkWindow = .ok bits ∧ decodeBits bits = .ok (i, rest) ∧ t = s.acceptChunk i := by
  unfold parseStep at h
  split at h
  · cases h
  · split at h
    · rename_i e he
      cases h
      cases e with
      | truncated => exact .inl rfl
      | unknownChunkTag => exact absurd he (decodeBits_ne_unknown _)
    · cases h
      exact .inr ⟨_, _, _, ‹_›, ‹_›, rfl⟩

/-- An accepted chunk: pushed, `pc` moved past it, and RECON entered when nothing is left. -/
theorem State.acceptChunk_eq (s : State) (i : Instr) :
    s.acceptChunk i =
      { (s.pushChunk i).advancePc i.kind.need with
        phase := if ((s.pushChunk i).advancePc i.kind.need).remBits = 0 then .recon else s.phase } := by
  unfold State.acceptChunk
  dsimp only
  split <;> rfl

/-- What any chunk may change, and how it ends: Q_RD one further with PHASE and ERR.CODE kept, or BufferOverrun. -/
theorem exec_changes {i : Instr} {s t : State} (h : exec i s = .next t) :
    ∃ g c r pv ca qr ph er,
      t = { s with grid := g, cursor := c, runRem := r, prev := pv, cache := ca, qRd := qr, phase := ph, err := er } ∧
      (qr = s.qRd + 1 ∧ ph = s.phase ∧ er = s.err ∨ qr = s.qRd ∧ ph = .error ∧ er = .bufferOverrun) := by
  cases i with
  | run n =>
    simp only [exec, execRun] at h
    obtain ⟨g, c, r, he | he⟩ := runWrites_frame (runLength n) (s.setRunRem (runLength n))
    · rw [he] at h; cases h
      exact ⟨g, c, r, s.prev, s.cache, s.qRd + 1, s.phase, s.err, rfl, by simp⟩
    · rw [he] at h; cases h
      exact ⟨g, c, r, s.prev, s.cache, s.qRd, _, _, rfl, by simp⟩
  | _ =>
    simp only [exec, execRgb, execRgba, execIndex, execDiff, execLuma, emit_settle] at h
    split at h <;> cases h
    · exact ⟨s.grid, s.cursor, s.runRem, s.prev, s.cache, s.qRd, _, _, rfl, by simp⟩
    · exact ⟨_, _, s.runRem, _, _, s.qRd + 1, s.phase, s.err, rfl, by simp⟩

/-- The engine's step: a chunk run, or the termination test. -/
theorem reconStep_cases {s t : State} (h : reconStep s = .next t) :
    (∃ i, s.q[s.qRd]? = some i ∧ exec i s = .next t) ∨
    (s.q[s.qRd]? = none ∧
      ((s.cursor = s.npix ∧ t = s.setPhase .done) ∨ (s.cursor ≠ s.npix ∧ t = s.raise .incompleteImage))) := by
  unfold reconStep at h
  split at h
  · exact .inl ⟨_, ‹_›, h⟩
  · unfold terminationTest at h
    split at h <;> cases h
    · exact .inr ⟨‹_›, .inl ⟨‹_›, rfl⟩⟩
    · exact .inr ⟨‹_›, .inr ⟨‹_›, rfl⟩⟩

/-- A step in PARSE: with the stream exhausted the engine's step from RECON, else an iteration of the parser's loop. -/
theorem parseStage_cases {s t : State} (h : parseStage s = .next t) :
    (s.remBits = 0 ∧ reconStep (s.setPhase .recon) = .next t) ∨ (s.remBits ≠ 0 ∧ parseStep s = .next t) := by
  unfold parseStage at h
  split at h
  · exact .inl ⟨‹_›, h⟩
  · exact .inr ⟨‹_›, h⟩

/-! ### The core's step, phase by phase -/

theorem coreStep_idle {p : Params} {s : State} (h : s.phase = .idle) : coreStep p s = .next s := by
  unfold coreStep; rw [h]

theorem coreStep_hdr {p : Params} {s : State} (h : s.phase = .hdr) : coreStep p s = headerStage p s := by
  unfold coreStep; rw [h]

theorem coreStep_parse {p : Params} {s : State} (h : s.phase = .parse) : coreStep p s = parseStage s := by
  unfold coreStep; rw [h]

theorem coreStep_recon {p : Params} {s : State} (h : s.phase = .recon) : coreStep p s = reconStep s := by
  unfold coreStep; rw [h]

theorem coreStep_done {p : Params} {s : State} (h : s.phase = .done) : coreStep p s = .next s.discard := by
  unfold coreStep; rw [h]

theorem coreStep_error {p : Params} {s : State} (h : s.phase = .error) : coreStep p s = .next s.discard := by
  unfold coreStep; rw [h]

/-- A step is the core's, in the state with the host's next move taken off, or one of the host's moves. -/
theorem stepWith_cases {p : Params} {s t : State} (h : stepWith p s = .next t) :
    ∃ ms, coreStep p (s.setInputs ms) = .next t ∨ t = s.setInputs ms ∨
      (busy s = false ∧ s.bufLen ≤ p.ibufCap ∧ t = (s.setInputs ms).start) ∨
      (busy s = false ∧ ∃ v, v ≤ p.ibufCap ∧ t = (s.setInputs ms).setBufLen v) ∨
      (busy s = false ∧ ∃ a b, a < p.ibufCap ∧ t = (s.setInputs ms).storeInput a b) ∨
      t = (s.setInputs ms).hardReset := by
  unfold stepWith at h
  split at h
  · rename_i hi
    exact ⟨[], .inl (by rw [show s.setInputs [] = s by cases s; simp_all [State.setInputs]]; exact h)⟩
  · rename_i m ms hi
    refine ⟨ms, ?_⟩
    cases m with
    | tick => exact .inl h
    | reset => cases h; simp
    | loadByte a b =>
      simp only [takeMove, hostLoadByte, busy_setInputs] at h
      by_cases hb : busy s = true
      · simp [hb] at h
      · by_cases hc : p.ibufCap ≤ a
        · simp [hb, hc] at h
        · simp only [hb, hc, Bool.false_eq_true, if_false, Host.Outcome.next.injEq] at h
          exact .inr (.inr (.inr (.inr (.inl ⟨by simpa using hb, a, b, by omega, h.symm⟩))))
    | writeReg k v =>
      simp only [takeMove, hostWriteReg] at h
      split at h
      · split at h
        · simp only [hostStart, busy_setInputs, State.setInputs_bufLen] at h
          by_cases hb : busy s = true
          · simp only [hb, if_true, Host.Outcome.next.injEq] at h
            exact .inr (.inl h.symm)
          · by_cases hc : p.ibufCap < s.bufLen
            · simp [hb, hc] at h
            · simp only [hb, hc, Bool.false_eq_true, if_false, Host.Outcome.next.injEq] at h
              exact .inr (.inr (.inl ⟨by simpa using hb, by omega, h.symm⟩))
        · cases h; simp
      · simp only [hostWriteBufLen, busy_setInputs, Host.Outcome.next.injEq] at h
        by_cases hb : busy s = true
        · simp only [hb, if_true] at h
          exact .inr (.inl h.symm)
        · by_cases hc : p.ibufCap < v
          · simp only [hb, hc, Bool.false_eq_true, if_false, if_true] at h
            exact .inr (.inl h.symm)
          · simp only [hb, hc, Bool.false_eq_true, if_false] at h
            exact .inr (.inr (.inr (.inl ⟨by simpa using hb, v, by omega, h.symm⟩)))
      · cases h; simp

/-- As many stream bits as asked for. -/
theorem State.streamBits_length {s : State} {n p : Nat} {l : List Bool} (h : s.streamBits p n = .ok l) : l.length = n := by
  induction n generalizing p l with
  | zero => simp only [State.streamBits, Except.ok.injEq] at h; simp [← h]
  | succ n ih =>
    unfold State.streamBits at h
    split at h; · cases h
    split at h; · cases h
    rename_i hb
    simp only [Except.ok.injEq] at h
    simp [← h, ih hb]

/-- The decoder is never given more bits than remain. -/
theorem State.chunkWindow_length {s : State} {bits : List Bool} (h : s.chunkWindow = .ok bits) : bits.length ≤ s.remBits := by
  unfold State.chunkWindow at h
  split at h; · cases h
  rename_i hh
  have := State.streamBits_length hh
  split at h
  · cases h; omega
  · split at h
    · cases h; omega
    · have := State.streamBits_length h; omega

/-- What the decoder is given at a byte boundary: the first byte alone if the chunk is not whole, else the chunk's bytes. -/
theorem State.chunkWindow_bytes {s : State} {b0 : Byte} {bs : List Byte} {k : ChunkKind}
    (ho : s.bitOff = 0) (hb : Memory.bytes s.ibuf s.byteIdx (s.bufLen - s.byteIdx) = some (b0 :: bs))
    (hk : kindOf b0 = some k) :
    s.chunkWindow = .ok (bytesBits (if 8 * (bs.length + 1) < k.need then [b0] else (b0 :: bs).take (k.need / 8))) := by
  have hlen := Memory.bytes_length hb
  simp only [List.length_cons] at hlen
  have hpos : s.bitPos = 8 * s.byteIdx := by simp [State.bitPos, ho]
  have hrem : s.remBits = 8 * (bs.length + 1) := by unfold State.remBits; rw [hpos]; omega
  have h1 := Memory.bytes_take hb (k := 1) (by omega)
  have hw1 := State.streamBits_bytes (s := s) h1
  unfold State.chunkWindow
  rw [hpos, hrem, show min 8 (8 * (bs.length + 1)) = 8 * 1 by omega, hw1]
  have hf : field 8 (bytesBits [b0]) = b0 := field8_bytesBits b0 []
  have ht : List.take 1 (b0 :: bs) = [b0] := rfl
  simp only [ht, hf, hk]
  have hm := k.need_mod
  split
  · rfl
  · have h2 := Memory.bytes_take hb (k := k.need / 8) (by omega)
    have := State.streamBits_bytes (s := s) h2
    rw [show 8 * (k.need / 8) = k.need by omega] at this
    exact this

/-- A field read inside bytes that are all there. -/
theorem State.memRead_of_bytes {s : State} {buf : List Byte} (h : Memory.bytes s.ibuf 0 buf.length = some buf) {a n : Nat}
    (hn : a + n ≤ buf.length) : s.memRead a n = .ok (beNat 0 ((buf.drop a).take n)) := by
  have h1 := Memory.bytes_drop h (k := a) (by omega)
  have h2 := Memory.bytes_take h1 (k := n) (by omega)
  rw [Nat.zero_add] at h2
  unfold State.memRead
  rw [h2]

/-- Every chunk keeps the canonical form of the grid. -/
theorem exec_wf {i : Instr} {s t : State} (hwf : Memory.wf s.grid = true) (h : exec i s = .next t) : Memory.wf t.grid = true := by
  cases i with
  | run n =>
    simp only [exec, execRun] at h
    cases hr : runWrites (runLength n) (s.setRunRem (runLength n)) with
    | ok u => rw [hr] at h; cases h; exact runWrites_wf _ (s := s.setRunRem _) (t := u) hwf (.inl hr)
    | failed k u => rw [hr] at h; cases h; exact runWrites_wf _ (s := s.setRunRem _) (t := u) hwf (.inr ⟨k, hr⟩)
  | _ =>
    simp only [exec, execRgb, execRgba, execIndex, execDiff, execLuma, emit_settle] at h
    split at h <;> cases h
    · exact hwf
    · exact Memory.wf_writeBytes _ _ hwf

/-- Steps compose. -/
theorem runWith_add {p : Params} {a b : Nat} {s t u : State} (h1 : runWith p a s = .next t)
    (h2 : runWith p b t = .next u) : runWith p (a + b) s = .next u := by
  induction a generalizing s with
  | zero =>
    simp only [runWith, Host.Outcome.next.injEq] at h1
    subst h1
    simpa using h2
  | succ a ih =>
    rw [show a + 1 + b = (a + b) + 1 by omega]
    unfold runWith at h1 ⊢
    cases hs : stepWith p s with
    | next v => rw [hs] at h1; exact ih h1
    | fault f => rw [hs] at h1; cases h1
    | refused r => rw [hs] at h1; cases h1

end Sys2Proof.Machine
end

