-- ==== Sys2Proof/Tests/Slice0.lean ====
section
/-! SUPPORT. The model's own tests: the well-formedness smoke, one written-out word per chunk kind, at most two single steps per
chunk, and for every obligation with hypotheses a concrete case that meets all of them. Expected values are those of spec
95_test_vectors.md or worked by hand from the rules; each test names its source. -/

namespace Sys2Proof.Tests

open Sys2Proof.Machine Sys2Proof.Safety

/-! ### Helpers -/

/-- What a field of the next state is, if there is one. -/
def after {α : Type} (o : Host.Outcome State Fault Refusal) (f : State → α) : Option α :=
  match o with
  | .next t => some (f t)
  | .fault _ => none
  | .refused _ => none

/-- The engine before a chunk: an image of `w` by `h`, the cursor at `c`, the previous pixel `px`. -/
def engine (w h : BitVec 32) (c : BitVec 64) (px : Pixel) : State :=
  { State.reset with width := w, height := h, cursor := c, prev := px, phase := .recon }

/-- A machine in some phase with a buffer in IBUF and BUF_LEN set. -/
def loaded (ph : Phase) (buf : List Byte) : State :=
  { State.reset with ibuf := Memory.writeBytes [] 0 buf, bufLen := buf.length, phase := ph }

/-- Small capacities: 16 bytes of input, 4 pixels of grid. -/
def small : Params := { sig := Config.sigDefault, ibufCap := 16, gridCap := 4 }

/-- Vector HD1's header: 3 by 2, CHANNELS 4, COLORSPACE 1. -/
def hd1 : List Byte := [0x71, 0x6F, 0x69, 0x66, 0, 0, 0, 3, 0, 0, 0, 2, 4, 1]

/-- A header of a 1 by 1 image. -/
def hdOne : List Byte := [0x71, 0x6F, 0x69, 0x66, 0, 0, 0, 1, 0, 0, 0, 1, 4, 0]

/-! ### Well-formedness: one term each way (30_encoding.md R67, R73) -/

theorem test_wf_run61 : (Instr.run 61).WellFormed := by decide
theorem test_wf_run62_refused : ¬ (Instr.run 62).WellFormed := by decide
theorem test_wf_run63_refused : ¬ (Instr.run 63).WellFormed := by decide
theorem test_wf_others : (Instr.rgb 0 0 0).WellFormed ∧ (Instr.rgba 0 0 0 0).WellFormed ∧ (Instr.index 63).WellFormed ∧
    (Instr.diff 3 3 3).WellFormed ∧ (Instr.luma 63 15 15).WellFormed := by decide

/-! ### Words written out bit by bit (95_test_vectors.md S2 to S7, PK2) -/

theorem test_decode_rgb : decodeTableWord 32 0b11111110000100010000010100010011 = some (.rgb 0x11 0x05 0x13) := by decide
theorem test_decode_rgba :
    decodeTableWord 40 0b1111111111111111000100100000011100010000 = some (.rgba 0xFF 0x12 0x07 0x10) := by decide
theorem test_decode_index : decodeTableWord 8 0b00101010 = some (.index 42) := by decide
theorem test_decode_diff : decodeTableWord 8 0b01110100 = some (.diff 3 1 0) := by decide
theorem test_decode_luma : decodeTableWord 16 0b1001101010010110 = some (.luma 26 9 6) := by decide
theorem test_decode_run : decodeTableWord 8 0b11011010 = some (.run 26) := by decide
/-- PK2: payload bytes equal to tag values are no tags. -/
theorem test_decode_pk2 :
    parseBytes [0xFE, 0xFF, 0xFE, 0xFF, 0xFF, 0xFE, 0xFE, 0xFE, 0xFE, 0xBF, 0xFF, 0xFD, 0x3F, 0x7F] =
      .ok [.rgb 255 254 255, .rgba 254 254 254 254, .luma 63 15 15, .run 61, .index 63, .diff 3 3 3] := by decide
theorem test_encode : encode (.luma 26 9 6) = [0x9A, 0x96] ∧ encode (.diff 3 1 2) = [0x76] ∧ encode (.index 47) = [0x2F] ∧
    encode (.run 61) = [0xFD] ∧ encode (.rgb 10 20 30) = [0xFE, 0x0A, 0x14, 0x1E] ∧
    encode (.rgba 200 100 250 7) = [0xFF, 0xC8, 0x64, 0xFA, 0x07] := by decide
/-- R69: which first bytes begin which kind. -/
theorem test_first_byte_sweep : ∀ b : Byte,
    (b.toNat ≤ 0x3F → kindOf b = some .index) ∧ (0x40 ≤ b.toNat ∧ b.toNat ≤ 0x7F → kindOf b = some .diff) ∧
    (0x80 ≤ b.toNat ∧ b.toNat ≤ 0xBF → kindOf b = some .luma) ∧ (0xC0 ≤ b.toNat ∧ b.toNat ≤ 0xFD → kindOf b = some .run) ∧
    (b = 0xFE → kindOf b = some .rgb) ∧ (b = 0xFF → kindOf b = some .rgba) := by decide

/-! ### The hash (95_test_vectors.md 2.3; S1) -/

theorem test_hash : pixelHash ⟨0, 0, 0, 0⟩ = 0 ∧ pixelHash ⟨0, 0, 0, 255⟩ = 53 ∧ pixelHash ⟨255, 255, 255, 255⟩ = 38 ∧
    pixelHash ⟨11, 9, 8, 255⟩ = 59 ∧ pixelHash ⟨86, 0, 0, 0⟩ = 2 ∧ pixelHash ⟨85, 52, 37, 24⟩ = 14 := by decide

/-! ### Single steps of each chunk -/

/-- LT2: alpha is inherited, and the slot of hash 34 is written. -/
theorem test_rgb_inherits_alpha :
    after (exec (.rgb 1 2 3) (engine 2 2 0 ⟨5, 6, 7, 0⟩)) (fun t => (t.prev, indexPixel t.cache 34, t.cursor)) =
      some (⟨1, 2, 3, 0⟩, ⟨1, 2, 3, 0⟩, 1) := by decide
/-- P2: position 4 of a 3 by 2 image is row 1, column 1, at byte 16. -/
theorem test_rgb_place :
    after (exec (.rgb 1 2 3) (engine 3 2 4 ⟨0, 0, 0, 9⟩)) (fun t => t.grid) =
      some [(16, 1), (17, 2), (18, 3), (19, 9)] := by decide
/-- LT3: alpha is the chunk's, and the slot of hash 47 is written. -/
theorem test_rgba :
    after (exec (.rgba 200 100 250 7) (engine 2 2 0 ⟨9, 9, 9, 9⟩)) (fun t => (t.prev, indexPixel t.cache 47)) =
      some (⟨200, 100, 250, 7⟩, ⟨200, 100, 250, 7⟩) := by decide
/-- V-E10, R111: no room, so nothing is written and ERR.CODE is BufferOverrun. -/
theorem test_rgba_overrun :
    after (exec (.rgba 1 2 3 4) (engine 1 1 1 ⟨9, 9, 9, 9⟩)) (fun t => (t.err, t.grid, t.prev, t.qRd)) =
      some (.bufferOverrun, [], ⟨9, 9, 9, 9⟩, 0) := by decide
/-- IX1: an unwritten slot gives (0,0,0,0), alpha 0 included. -/
theorem test_index_unwritten :
    after (exec (.index 53) (engine 2 2 0 ⟨1, 1, 1, 255⟩)) (fun t => (t.prev, t.grid)) =
      some (⟨0, 0, 0, 0⟩, [(0, 0), (1, 0), (2, 0), (3, 0)]) := by decide
/-- IX2, with a slot that is not the pixel's hash: the slot is read, and no slot is written (R137). -/
theorem test_index_cache_kept :
    after (exec (.index 5) ((engine 2 2 0 ⟨1, 1, 1, 255⟩).setCache 5 ⟨10, 20, 30, 255⟩))
      (fun t => (t.prev, indexPixel t.cache 9, indexPixel t.cache 5)) =
      some (⟨10, 20, 30, 255⟩, ⟨0, 0, 0, 0⟩, ⟨10, 20, 30, 255⟩) := by decide
/-- S8 and its continuation: (11,9,8,255), in slot 59. -/
theorem test_diff_s8 :
    after (exec (.diff 3 1 0) (engine 2 2 0 ⟨10, 10, 10, 255⟩)) (fun t => (t.prev, indexPixel t.cache 59, t.cursor)) =
      some (⟨11, 9, 8, 255⟩, ⟨11, 9, 8, 255⟩, 1) := by decide
/-- 2.6, byte 4B: 0 - 2 wraps to 254. -/
theorem test_diff_wraps :
    after (exec (.diff 0 2 3) (engine 2 2 0 ⟨0, 255, 128, 9⟩)) (fun t => t.prev) = some ⟨254, 255, 129, 9⟩ := by decide
/-- 2.7, bytes 9A 96. -/
theorem test_luma :
    after (exec (.luma 26 9 6) (engine 2 2 0 ⟨100, 100, 100, 200⟩)) (fun t => t.prev) = some ⟨95, 94, 92, 200⟩ := by decide
/-- 2.7, wrap-up case: the blue channel passes 255, and the slot of hash 26 is written. -/
theorem test_luma_wraps :
    after (exec (.luma 50 15 0) (engine 2 2 0 ⟨200, 100, 250, 7⟩)) (fun t => (t.prev, indexPixel t.cache 26)) =
      some (⟨225, 118, 4, 7⟩, ⟨225, 118, 4, 7⟩) := by decide
/-- RN2: one write at position 3, the cursor at 4; PREV's slot 9 is not written. -/
theorem test_run_one :
    after (exec (.run 0) (engine 4 1 3 ⟨10, 20, 30, 255⟩))
      (fun t => (t.grid, t.cursor, t.runRem, indexPixel t.cache 9, t.phase)) =
      some ([(12, 10), (13, 20), (14, 30), (15, 255)], 4, 0, ⟨0, 0, 0, 0⟩, .recon) := by decide
/-- RN3: the write at position 3 happens, then BufferOverrun. -/
theorem test_run_overrun :
    after (exec (.run 1) (engine 4 1 3 ⟨10, 20, 30, 255⟩)) (fun t => (t.grid, t.phase, t.err)) =
      some ([(12, 10), (13, 20), (14, 30), (15, 255)], .error, .bufferOverrun) := by decide

/-! ### The stages -/

/-- HD1: the four registers, the cursor at byte 14, PHASE PARSE. -/
theorem test_header_hd1 :
    after (stepWith Config.params (loaded .hdr hd1))
      (fun t => (t.width, t.height, t.channels, t.colorspace, t.byteIdx, t.phase)) =
      some (3, 2, 4, 1, 14, .parse) := by decide
/-- HD6: a wrong signature in a short buffer is BadSignature. HD5: thirteen bytes are Truncated. -/
theorem test_header_errors :
    after (stepWith Config.params (loaded .hdr [0x71, 0x6F, 0x78, 0x78, 0, 0, 0])) (fun t => t.err) = some .badSignature ∧
    after (stepWith Config.params (loaded .hdr (hd1.take 13))) (fun t => t.err) = some .truncated := by decide
/-- PK11: LUMA with one of two bytes is Truncated. -/
theorem test_parse_truncated :
    after (stepWith Config.params { loaded .parse (hd1 ++ [0x9A]) with byteIdx := 14 }) (fun t => (t.phase, t.err, t.q)) =
      some (.error, .truncated, []) := by decide
/-- V-E8 and V-E6: behind an empty stream the step from PARSE is the termination test, IncompleteImage or DONE (R162). -/
theorem test_empty_stream :
    after (stepWith Config.params { loaded .parse hdOne with byteIdx := 14, width := 1, height := 1 })
      (fun t => (t.phase, t.err)) = some (.error, .incompleteImage) ∧
    after (stepWith Config.params { loaded .parse hdOne with byteIdx := 14, width := 0, height := 5 })
      (fun t => (t.phase, t.err)) = some (.done, .noError) := by decide
/-- R165: an empty stream takes START, the header stage and the termination test, three steps. -/
theorem test_empty_stream_steps :
    after (runWith Config.params 3 ((loaded .idle hdOne).setInputs [.writeReg 0 1])) (fun t => (t.phase, t.err)) =
      some (.error, .incompleteImage) := by decide
/-- The state right after reset (10_state.md R30). -/
theorem test_reset : readReg State.reset 1 = 0 ∧ readReg State.reset 2 = 0 ∧ readReg State.reset 3 = 0 := by decide

/-! ### The word placed for the next step runs as the first instruction after reset (log 19) -/

theorem test_first_instruction_rgb :
    after (step (State.reset.withFetchWord 32 0xFE0A141E)) (fun t => (t.prev, t.cursor)) =
      some (⟨10, 20, 30, 255⟩, 1) := by decide
theorem test_first_instruction_run :
    after (step (State.reset.withFetchWord 8 0xFD)) (fun t => (t.cursor, t.phase)) = some (62, .recon) := by decide

/-! ### Witnesses: for each obligation with hypotheses, cases that meet them all -/

/-- DecodeUndoesEncode and DecodedBytesAreTheEncoding, at the last run with an encoding and at the longest chunk. -/
theorem witness_encoding :
    (Instr.run 61).WellFormed ∧ decode (encode (.run 61) ++ [0xFE]) = .ok (.run 61, [0xFE]) ∧
    (Instr.rgba 255 255 255 255).WellFormed ∧
    decode [0xFF, 0xFF, 0xFF, 0xFF, 0xFF] = .ok (.rgba 255 255 255 255, []) := by decide

/-- TruncatedExactlyWhenShort, each length one byte short and just whole; 7F and C0 stand beside LUMA's range. -/
theorem witness_truncated :
    decode [0xFE, 1, 2] = .error .truncated ∧ decode [0xFE, 1, 2, 3] = .ok (.rgb 1 2 3, []) ∧
    decode [0xFF, 1, 2, 3] = .error .truncated ∧ decode [0xFF, 1, 2, 3, 4] = .ok (.rgba 1 2 3 4, []) ∧
    decode [0x80] = .error .truncated ∧ decode [0x80, 0] = .ok (.luma 0 0 0, []) ∧
    decode [0xBF] = .error .truncated ∧ decode [0xBF, 0] = .ok (.luma 63 0 0, []) ∧
    decode [0x7F] = .ok (.diff 3 3 3, []) ∧ decode [0xC0] = .ok (.run 0, []) ∧ decode [0xFD] = .ok (.run 61, []) :=
  ⟨by decide, by decide, by decide, by decide, by decide, by decide, by decide, by decide, by decide, by decide, by decide⟩

/-- UnknownChunkTagNeverRaised: a state without that code, and its step. -/
theorem witness_unknown_tag :
    State.reset.err ≠ .unknownChunkTag ∧ after (stepWith Config.params State.reset) (fun t => t.err) = some .noError := by
  decide

/-- The parser at byte 14 of a buffer. -/
def parsing (stream : List Byte) : State := { loaded .parse (hdOne ++ stream) with byteIdx := 14 }

/-- ParseStepQueuesTheDecodedChunk: an empty stream, a chunk cut short, the last chunk, a chunk with more behind it. -/
theorem witness_parse_step :
    ([[], [0xFE, 1], [0xC0], [0x9A, 0x96, 0]] : List (List Byte)).all (fun bs =>
      let s := parsing bs
      decide (s.inputs = [] ∧ s.phase = .parse ∧ s.bitOff = 0 ∧ s.byteIdx ≤ s.bufLen ∧
        Memory.bytes s.ibuf s.byteIdx (s.bufLen - s.byteIdx) = some bs)) = true := by decide

/-- EngineStepRunsTheQueuedChunk: a record at Q_RD, with and without a host move before it. -/
theorem witness_engine_step :
    let s := { engine 2 2 0 Pixel.prevInit with q := [.index 3] }
    (s.phase = .recon ∧ s.q[s.qRd]? = some (.index 3) ∧ s.inputs = []) ∧
    ((s.setInputs [.tick]).phase = .recon ∧ (s.setInputs [.tick]).q[s.qRd]? = some (.index 3)) := by decide

/-- CoreStepsWhenNoMoveIsDue: no move, and the move `tick`. -/
theorem witness_core_steps_due :
    (parsing [0xC0]).inputs = [] ∧ ((parsing [0xC0]).setInputs [.tick, .reset]).inputs = .tick :: [.reset] := by decide

/-- PlacedWordRunsNext: a table word of the shortest and of the longest width. -/
theorem witness_placed_word :
    decodeTableWord 8 0x2A = some (.index 42) ∧ decodeTableWord 40 0xFFFF120710 = some (.rgba 0xFF 0x12 0x07 0x10) := by
  decide

/-- The six result statements and FullGridOverruns: the last position with room, and the first without. -/
theorem witness_room :
    let s := engine 2 2 3 Pixel.prevInit
    let f := engine 2 2 4 Pixel.prevInit
    s.cursor.toNat < s.npix.toNat ∧ f.npix.toNat ≤ f.cursor.toNat := by decide

/-- RunRepeatsPrev: the run that just fits, the one too long by one, and a full grid. -/
theorem witness_run :
    let s := engine 2 2 1 Pixel.prevInit
    (2 : BitVec 6).toNat + 1 ≤ s.npix.toNat - s.cursor.toNat ∧ s.npix.toNat - s.cursor.toNat < (3 : BitVec 6).toNat + 1 ∧
    (engine 2 2 4 Pixel.prevInit).npix.toNat - (engine 2 2 4 Pixel.prevInit).cursor.toNat < (0 : BitVec 6).toNat + 1 := by
  decide

/-- EmittingChunkFrame, ChunksIgnoreChannelsAndColorspace, CursorStaysWithinTheGrid, CacheStaysKeyedByHash: a chunk that
emits and one that overruns. -/
theorem witness_emitting :
    (Instr.rgb 1 2 3).kind ≠ .run ∧ (∃ t, exec (.rgb 1 2 3) (engine 2 2 3 Pixel.prevInit) = .next t ∧ t.phase = .recon) ∧
    (∃ t, exec (.index 3) (engine 2 2 4 Pixel.prevInit) = .next t ∧ t.phase = .error) ∧
    (engine 2 2 4 Pixel.prevInit).cursor.toNat ≤ (engine 2 2 4 Pixel.prevInit).npix.toNat :=
  ⟨by decide, ⟨_, rfl, rfl⟩, ⟨_, rfl, rfl⟩, by decide⟩

/-- RunFrame: a run that completes and one that overruns. -/
theorem witness_run_frame :
    (∃ t, exec (.run 1) (engine 2 2 1 Pixel.prevInit) = .next t ∧ t.phase = .recon) ∧
    (∃ t, exec (.run 3) (engine 2 2 1 Pixel.prevInit) = .next t ∧ t.phase = .error) :=
  ⟨⟨_, rfl, rfl⟩, ⟨_, rfl, rfl⟩⟩

/-- CacheStaysKeyedByHash: the fresh cache, and one with slot 9 written. -/
theorem witness_cache_keyed :
    CacheKeyed (engine 2 2 0 Pixel.prevInit) ∧
    CacheKeyed ((engine 2 2 0 Pixel.prevInit).setCache 9 ⟨10, 20, 30, 255⟩) := by
  constructor <;> · unfold CacheKeyed; decide

/-- GridIsRowMajor: the last entry of a 3 by 2 grid, and another entry beside it. -/
theorem witness_row_major :
    let s := engine 3 2 0 Pixel.prevInit
    5 < s.npix.toNat ∧ 1 < s.height.toNat ∧ 1 < s.width.toNat ∧ ¬ (1 = 5 / s.width.toNat ∧ 1 = 5 % s.width.toNat) := by
  decide

/-- HeaderStageIsParseHeader: a header that loads, one cut short, one refused for its size, a wrong signature; NPIX just at
GRID_CAP loads, one row more is refused. -/
theorem witness_header_stage :
    ([hd1, hd1.take 13, [], [0x71, 0x6F, 0x78, 0x78]] : List (List Byte)).all (fun buf =>
      let s := loaded .hdr buf
      decide (s.inputs = [] ∧ s.phase = .hdr ∧ s.bufLen = buf.length ∧ Memory.bytes s.ibuf 0 buf.length = some buf)) = true ∧
    stepWith small (loaded .hdr hd1) = .refused .launchOverGridCap ∧
    (∃ t, stepWith Config.params (loaded .hdr hd1) = .next t) ∧ (∃ t, stepWith small (loaded .hdr []) = .next t) ∧
    (let buf : List Byte := [0x71, 0x6F, 0x69, 0x66, 0, 0, 0, 2, 0, 0, 0, 2, 4, 0]
     HoldsBuffer (loaded .hdr buf) buf ∧ ∃ t, stepWith small (loaded .hdr buf) = .next t ∧ t.npix.toNat = small.gridCap) ∧
    stepWith small (loaded .hdr [0x71, 0x6F, 0x69, 0x66, 0, 0, 0, 2, 0, 0, 0, 3, 4, 0]) = .refused .launchOverGridCap :=
  ⟨by decide, rfl, ⟨_, rfl⟩, ⟨_, rfl⟩, ⟨by unfold HoldsBuffer; decide, _, rfl, rfl⟩, rfl⟩

/-- HeaderErrorsInReadingOrder, each clause at its boundary length: 3, 4 and 14 with a wrong signature, 4 and 13, 14. -/
theorem witness_header_errors :
    (hd1.take 3).length < 4 ∧ 4 ≤ [0x71, 0x6F, 0x69, (0x67 : Byte)].length ∧
    beNat 0 ([0x71, 0x6F, 0x69, (0x67 : Byte)].take 4) ≠ Config.sigDefault.toNat ∧
    4 ≤ (hd1.take 4).length ∧ beNat 0 ((hd1.take 4).take 4) = Config.sigDefault.toNat ∧ (hd1.take 4).length < 14 ∧
    4 ≤ (hd1.take 13).length ∧ beNat 0 ((hd1.take 13).take 4) = Config.sigDefault.toNat ∧ (hd1.take 13).length < 14 ∧
    14 ≤ hd1.length ∧ beNat 0 (hd1.take 4) = Config.sigDefault.toNat := by decide

/-- HeaderIntegersAreBigEndian: HD2, 256 by 65536, and HD3's unlisted CHANNELS 0 and COLORSPACE 2. -/
theorem witness_header_integers :
    0x71 * 2 ^ 24 + 0x6F * 2 ^ 16 + 0x69 * 2 ^ 8 + 0x66 = Config.sigDefault.toNat ∧
    parseHeader Config.sigDefault [0x71, 0x6F, 0x69, 0x66, 0, 0, 1, 0, 0, 1, 0, 0, 3, 0] =
      .ok ({ width := 256, height := 65536, channels := 3, colorspace := 0 }, []) ∧
    parseHeader Config.sigDefault [0x71, 0x6F, 0x69, 0x66, 255, 255, 255, 255, 255, 255, 255, 255, 0, 2] =
      .ok ({ width := 4294967295, height := 4294967295, channels := 0, colorspace := 2 }, []) := by decide

/-- TerminationTestDecides: the queue's end, the grid complete and not. -/
theorem witness_termination :
    let s := engine 2 2 4 Pixel.prevInit
    s.inputs = [] ∧ s.phase = .recon ∧ s.q.length ≤ s.qRd ∧ s.cursor = s.npix ∧
    (engine 2 2 3 Pixel.prevInit).cursor ≠ (engine 2 2 3 Pixel.prevInit).npix := by decide

/-- DoneAndErrorAreStable, IdleWaitsForTheHost: a state of each phase. -/
theorem witness_stable :
    (loaded .done hdOne).inputs = [] ∧ (loaded .done hdOne).phase = .done ∧ (loaded .error hdOne).phase = .error ∧
    State.reset.inputs = [] ∧ State.reset.phase = .idle := by decide

/-- OnlyTheListedTransitions, StagesRaiseTheirOwnErrors, CoreLeavesInputAlone: a core step in each phase. -/
theorem witness_core_steps :
    (∃ t, coreStep small State.reset = .next t) ∧ (∃ t, coreStep small (loaded .hdr hdOne) = .next t ∧ t.phase = .parse) ∧
    (∃ t, coreStep small (loaded .hdr []) = .next t ∧ t.err = .truncated) ∧
    (∃ t, coreStep small (engine 2 2 4 Pixel.prevInit) = .next t ∧ t.phase = .done) ∧
    (∃ t, coreStep small (loaded .done hdOne) = .next t) ∧ (∃ t, coreStep small (loaded .error hdOne) = .next t) :=
  ⟨⟨_, rfl⟩, ⟨_, rfl, rfl⟩, ⟨_, rfl, rfl⟩, ⟨_, rfl, rfl⟩, ⟨_, rfl⟩, ⟨_, rfl⟩⟩

/-- EngineWaitsForTheWholeStream, QueueIsFirstInFirstOut: the parser's last chunk enters RECON, an engine step leaves
Q, and so does the step from PARSE with the stream exhausted. -/
theorem witness_stream_and_queue :
    (parsing [0xC0]).phase ≠ .recon ∧
    (∃ t, stepWith small (parsing [0xC0]) = .next t ∧ t.phase = .recon ∧ t.q = [.run 0]) ∧
    (parsing [0xC0]).remBits ≠ 0 ∧
    (∃ t, coreStep small { engine 2 2 0 Pixel.prevInit with q := [.index 3] } = .next t ∧ t.qRd = 1) ∧
    ((parsing []).phase = .parse ∧ (parsing []).remBits = 0) ∧
    (∃ t, coreStep small (parsing []) = .next t ∧ t.phase = .done) :=
  ⟨by decide, ⟨_, rfl, rfl, rfl⟩, by decide, ⟨_, rfl, rfl⟩, by decide, ⟨_, rfl, rfl⟩⟩

/-- StartInitialisesTheDecode: ignored while busy, accepted with BUF_LEN at IBUF_CAP; OversizedLaunchIsRefused: one above. -/
theorem witness_start :
    (1 : Nat).testBit 0 = true ∧
    ((loaded .done hdOne).setInputs [.writeReg 0 1, .tick]).inputs = .writeReg 0 1 :: [.tick] ∧
    ((loaded .parse hdOne).phase = .parse ∧ (loaded .parse hdOne).bufLen ≤ small.ibufCap) ∧
    ({ State.reset with bufLen := 16 }.phase = .idle ∧ (16 : Nat) ≤ small.ibufCap) ∧
    (busy { State.reset with bufLen := 17 } = false ∧ small.ibufCap < 17) := by decide

/-- RegisterWritesAreGuarded: BUF_LEN at and above IBUF_CAP and while busy; CTRL with bit 0 clear; the other numbers. -/
theorem witness_register_writes :
    after (hostWriteReg small 3 16 State.reset) (fun t => t.bufLen) = some 16 ∧
    after (hostWriteReg small 3 17 State.reset) (fun t => t.bufLen) = some 0 ∧
    after (hostWriteReg small 3 16 (loaded .parse hdOne)) (fun t => t.bufLen) = some 14 ∧
    (2 : Nat).testBit 0 = false ∧ ((4 : Nat) ≠ 0 ∧ (4 : Nat) ≠ 3) ∧ ((8 : Nat) ≠ 0 ∧ (8 : Nat) ≠ 3) := by decide

/-- RegisterReadsShowOnlyTheRegisters: the first number not listed, and two states that differ in private state alone. -/
theorem witness_register_reads :
    (8 : Nat) ≤ 8 ∧ readReg (loaded .done hdOne) 8 = 0 ∧ readReg (loaded .done hdOne) 1 = 4 ∧
    readReg ((loaded .done hdOne).raise .incompleteImage) 2 = 5 ∧
    (let s := engine 2 2 0 Pixel.prevInit
     let t := engine 2 2 3 Pixel.blank
     s.phase = t.phase ∧ s.err = t.err ∧ s.bufLen = t.bufLen ∧ s.width = t.width ∧ s.height = t.height ∧
       s.channels = t.channels ∧ s.colorspace = t.colorspace ∧ s ≠ t) := by decide

/-- LoadedByteReadsBack: while busy, and when not the last byte of IBUF and the address behind it. -/
theorem witness_load :
    busy (loaded .hdr hdOne) = true ∧ busy State.reset = false ∧ 15 < small.ibufCap ∧ small.ibufCap ≤ 16 ∧ (14 : Nat) ≠ 15 := by
  decide

/-- A finished 1 by 1 image. -/
def finished : State :=
  { loaded .done (hdOne ++ [0xFE, 10, 20, 30]) with
    width := 1, height := 1, grid := [(0, 10), (1, 20), (2, 30), (3, 255)] }

/-- GridReadableOnlyInDone: not in RECON; in DONE the entry reads. -/
theorem witness_grid_read :
    (engine 1 1 1 Pixel.prevInit).phase ≠ .done ∧ readGrid finished 0 0 = .next ⟨10, 20, 30, 255⟩ :=
  ⟨by decide, rfl⟩

/-- ResetAbandonsTheDecode: a reset move in the middle of a decode. -/
theorem witness_reset : ((parsing [0xC0]).setInputs [.reset, .tick]).inputs = .reset :: [.tick] := by decide

/-- MemoriesStayCanonical, ErrorCodeExactlyInError: a machine in ERROR with both memories listed, and its step. -/
theorem witness_canonical :
    let s := { finished with phase := .error, err := .incompleteImage }
    Memory.wf s.ibuf = true ∧ Memory.wf s.grid = true ∧ (s.err ≠ .noError ↔ s.phase = .error) ∧
    (∃ t, step s = .next t) ∧ (∃ t, stepWith small (parsing [0xC0]) = .next t) :=
  ⟨by decide, by decide, by decide, ⟨_, rfl⟩, ⟨_, rfl⟩⟩

/-- Exactly the first four bytes of the finished image's grid have been written. -/
theorem finished_filled : GridFilled finished 1 := by
  intro a
  simp only [finished, loaded, Memory.read]
  repeat' split
  all_goals simp
  all_goals omega

/-- StepKeepsTheInvariant and DoneGridIsComplete: the invariant at a finished image that is not empty, with its step. -/
theorem witness_inv_done :
    Inv Config.params finished ∧ finished.phase = .done ∧ 0 < finished.height.toNat ∧ 0 < finished.width.toNat ∧
    ∃ t, step finished = .next t :=
  ⟨⟨by decide, by decide, by decide, by decide, ⟨by decide, finished_filled⟩⟩, by decide, by decide, by decide, ⟨_, rfl⟩⟩

/-- StepKeepsTheInvariant: the invariant in the parser, one chunk from the end, with its step into RECON. -/
theorem witness_inv_parse :
    let s := { parsing [0xC0] with width := 1, height := 1 }
    Inv small s ∧ ∃ t, stepWith small s = .next t ∧ t.phase = .recon :=
  ⟨⟨by decide, by decide, by decide, by decide,
    ⟨⟨rfl, rfl, rfl, rfl, rfl, rfl⟩, by decide, by decide, by decide, by decide, by decide, by decide⟩⟩, ⟨_, rfl, rfl⟩⟩

/-- StepKeepsTheInvariant: the invariant in the engine behind the last chunk, with the grid complete and its step to DONE. -/
theorem witness_inv_recon :
    let s := { finished with phase := .recon, cursor := 1, q := [.rgb 10 20 30], qRd := 1, byteIdx := 18 }
    Inv Config.params s ∧ ∃ t, step s = .next t ∧ t.phase = .done :=
  ⟨⟨by decide, by decide, by decide, by decide,
    ⟨by decide, by decide, by decide, by decide, by decide, by decide, by decide, by decide,
      by unfold CacheKeyed; decide, finished_filled⟩⟩, ⟨_, rfl, rfl⟩⟩

/-- StepKeepsTheInvariant: the invariant at reset, with the step that START makes. -/
theorem witness_inv_reset :
    let s := State.reset.setInputs [.writeReg 0 1]
    Inv small s ∧ ∃ t, stepWith small s = .next t ∧ t.phase = .hdr :=
  ⟨⟨by decide, by decide, by decide, by decide, trivial⟩, ⟨_, rfl, rfl⟩⟩

/-- MachineComputesDecode and EveryDecodeEnds: the launch of a 1 by 1 image with one chunk, on the small machine. -/
theorem witness_launch :
    let buf := hdOne ++ [0xC0]
    let s := (loaded .idle buf).setInputs [.writeReg 0 1]
    Launch small s buf ∧ GridFits small buf ∧ s.inputs = [.writeReg 0 1] := by
  refine ⟨by unfold Launch HoldsBuffer; decide, ?_, rfl⟩
  intro h rest e
  have hp : parseHeader small.sig (hdOne ++ [0xC0]) =
      .ok ({ width := 1, height := 1, channels := 4, colorspace := 0 }, [0xC0]) := by decide
  rw [hp] at e
  simp only [Except.ok.injEq, Prod.mk.injEq] at e
  rw [← e.1]
  decide

/-- DecodeDependsOnTheBufferAlone: a machine after reset and one that failed before, with the same buffer. -/
theorem witness_two_launches :
    let s := (loaded .idle hdOne).setInputs [.writeReg 0 1]
    let s' := { loaded .error hdOne with err := .truncated, cursor := 7, freeCtr := 3, inputs := [.writeReg 0 1] }
    busy s = false ∧ busy s' = false ∧ s.ibuf = s'.ibuf ∧ s.bufLen = s'.bufLen ∧
    s.inputs = [.writeReg 0 1] ∧ s'.inputs = [.writeReg 0 1] ∧ s ≠ s' ∧ ∃ t, runWith small 1 s = .next t :=
  ⟨by decide, by decide, by decide, by decide, by decide, by decide, by decide, ⟨_, rfl⟩⟩

end Sys2Proof.Tests
end

section
/-! PROOFS. Dispatch and length of a chunk from its first byte (spec 30_encoding.md R68). -/

namespace Sys2Proof.Encoding

/-- The kind R68 gives a first byte. With the 2-bit tags 0b00, 0b01 and 0b10 taken, 0b11 is the only one left. -/
def firstByteKind (b0 : Byte) : ChunkKind :=
  if b0 = 0xFE then .rgb
  else if b0 = 0xFF then .rgba
  else if b0.extractLsb' 6 2 = (0b00 : BitVec 2) then .index
  else if b0.extractLsb' 6 2 = (0b01 : BitVec 2) then .diff
  else if b0.extractLsb' 6 2 = (0b10 : BitVec 2) then .luma
  else .run

/-- length(b0) of R68, in bytes. -/
def firstByteLength (b0 : Byte) : Nat :=
  if b0 = 0xFE then 4 else if b0 = 0xFF then 5 else if 0x80 ≤ b0.toNat ∧ b0.toNat ≤ 0xBF then 2 else 1

/-- The four 2-bit tags are all there are, so the defensive arm of the dispatch is out of reach. -/
theorem tag_eq_run_of_ne {t : BitVec 2} (hindex : t ≠ 0b00) (hdiff : t ≠ 0b01) (hluma : t ≠ 0b10) : t = 0b11 := by
  bv_omega

/-- The LUMA tag as a range of first bytes. -/
theorem tag_eq_luma_iff (b0 : Byte) :
    b0.extractLsb' 6 2 = (0b10 : BitVec 2) ↔ 0x80 ≤ b0.toNat ∧ b0.toNat ≤ 0xBF := by
  have htag : (b0.extractLsb' 6 2).toNat = b0.toNat / 64 % 4 := by
    simp [BitVec.extractLsb'_toNat, Nat.shiftRight_eq_div_pow]
  have hlt : b0.toNat < 256 := b0.isLt
  rw [← BitVec.toNat_inj, htag]
  change b0.toNat / 64 % 4 = 2 ↔ _
  omega

theorem kindOf_eq_firstByteKind (b0 : Byte) : kindOf b0 = some (firstByteKind b0) := by
  unfold kindOf firstByteKind Config.tagRgb Config.tagRgba
  split_ifs with hrgb hrgba hindex hdiff hluma hrun
  case neg => exact absurd (tag_eq_run_of_ne hindex hdiff hluma) hrun
  all_goals rfl

theorem firstByteKind_need (b0 : Byte) : (firstByteKind b0).need = 8 * firstByteLength b0 := by
  simp only [firstByteKind, firstByteLength, ← tag_eq_luma_iff]
  split_ifs with hrgb hrgba hindex hluma hdiff hluma
  · rfl
  · rfl
  · exact absurd (hindex.symm.trans hluma) (by decide)
  · rfl
  · exact absurd (hdiff.symm.trans hluma) (by decide)
  all_goals rfl

/-- Settles O4: the dispatch is `firstByteKind`, whose need is 8 bits for each byte of `firstByteLength`. -/
theorem firstByteSelectsKindAndLength : Obligations.FirstByteSelectsKindAndLength := fun b0 =>
  ⟨firstByteKind b0, kindOf_eq_firstByteKind b0, rfl, firstByteKind_need b0⟩

end Sys2Proof.Encoding
end

section
/-! PROOFS. The grid is row-major: entry numbers against rows and columns (spec 42_engine_common.md R113, 20_memory.md R43). -/

namespace Sys2Proof.Machine

/-- Quotient and remainder by WIDTH find the entry at (row, col) again from its number. -/
theorem State.entryAddr_eq_pixelAddr_iff (s : State) {row col : Nat} (c : Nat) (hcol : col < s.width.toNat) :
    s.entryAddr row col = s.pixelAddr c ↔ row = c / s.width.toNat ∧ col = c % s.width.toNat := by
  have hunique := Nat.div_mod_unique (a := c) (d := row) (c := col) (Nat.zero_lt_of_lt hcol)
  rw [State.pixelAddr_eq, State.entryAddr, Nat.mul_comm row, Nat.add_comm, eq_comm (a := row), eq_comm (a := col), hunique]
  omega

/-- Entries start at multiples of four bytes, so two of them coincide or are four bytes apart. -/
theorem State.entryAddr_apart_of_ne (s : State) {row col c : Nat} (h : s.entryAddr row col ≠ s.pixelAddr c) :
    s.entryAddr row col + 4 ≤ s.pixelAddr c ∨ s.pixelAddr c + 4 ≤ s.entryAddr row col := by
  rw [State.pixelAddr_eq] at h ⊢
  unfold State.entryAddr at h ⊢
  omega

theorem State.pixelAt_gridWrite_same (s : State) (c : Nat) (px : Pixel) :
    Memory.pixelAt (s.gridWrite c px).grid (s.pixelAddr c) = some px :=
  Memory.pixelAt_writeBytes_same s.grid (s.pixelAddr c) px

theorem State.pixelAt_gridWrite_other (s : State) {row col c : Nat} (px : Pixel) (hcol : col < s.width.toNat)
    (hne : ¬ (row = c / s.width.toNat ∧ col = c % s.width.toNat)) :
    Memory.pixelAt (s.gridWrite c px).grid (s.entryAddr row col) = Memory.pixelAt s.grid (s.entryAddr row col) :=
  Memory.pixelAt_writeBytes_other s.grid px
    (s.entryAddr_apart_of_ne (mt (s.entryAddr_eq_pixelAddr_iff c hcol).mp hne))

/-- Below NPIX there is a row to stand in: WIDTH is not 0 and the row is one of HEIGHT. -/
theorem State.row_lt_height {s : State} {c : Nat} (h : c < s.npix.toNat) :
    0 < s.width.toNat ∧ c / s.width.toNat < s.height.toNat := by
  rw [State.npix_toNat] at h
  exact ⟨Nat.pos_of_mul_pos_right (Nat.zero_lt_of_lt h), Nat.div_lt_of_lt_mul h⟩

/-- Settles O24: `pixelAddr` is the address of the entry R113 names, and any other entry's four bytes lie apart from it. -/
theorem gridIsRowMajor : Obligations.GridIsRowMajor := by
  intro s c px hc
  obtain ⟨hwidth, hrow⟩ := State.row_lt_height hc
  exact ⟨hwidth, hrow, Nat.mod_lt c hwidth, Nat.div_add_mod' c s.width.toNat, s.pixelAt_gridWrite_same c px,
    fun _ _ _ hcol hne => s.pixelAt_gridWrite_other px hcol hne⟩

end Sys2Proof.Machine
end

section
/-! PROOFS. What a chunk that emits leaves, in the words of the result statements (spec 42_engine_common.md R112, R114): the
grid, the cache, and the two ways an emitting chunk ends. -/

namespace Sys2Proof.Machine

open Sys2Proof.Safety

/-- A pixel write leaves every byte outside its entry alone. -/
theorem State.read_gridWrite_apart (s : State) {a c : Nat} (px : Pixel)
    (h : a < s.pixelAddr c ∨ s.pixelAddr c + 4 ≤ a) :
    Memory.read (s.gridWrite c px).grid a = Memory.read s.grid a := by
  rcases h with hbelow | habove
  · exact Memory.read_writeBytes_below s.grid _ hbelow
  · exact Memory.read_writeBytes_above s.grid (pixelBytes px) habove

@[simp] theorem indexPixel_set_same (cache : Vector Pixel 64) (i : BitVec 6) (px : Pixel) :
    indexPixel (cache.set i.toNat px i.isLt) i = px :=
  Vector.getElem_set_self i.isLt

theorem indexPixel_set_other (cache : Vector Pixel 64) {i k : BitVec 6} (px : Pixel) (hne : k ≠ i) :
    indexPixel (cache.set i.toNat px i.isLt) k = indexPixel cache k :=
  Vector.getElem_set_ne i.isLt k.isLt (fun h => hne (BitVec.eq_of_toNat_eq h.symm))

/-- The state a chunk that found room leaves is the one R112 and R114 describe. -/
theorem emitted_advanceQ_spec (new : Pixel) (updateCache : Bool) {s : State} (hroom : s.cursor.toNat < s.npix.toNat) :
    Emitted s (emitted new updateCache s).advanceQ new :=
  ⟨s.pixelAt_gridWrite_same s.cursor.toNat new, fun _ hapart => s.read_gridWrite_apart new hapart,
    State.cursor_succ_toNat hroom, rfl⟩

/-- A chunk that emits with cache update writes the slot of the new pixel's hash and no other. -/
theorem emitted_advanceQ_cachedAt (new : Pixel) (s : State) : CachedAt s (emitted new true s).advanceQ new :=
  ⟨indexPixel_set_same s.cache (pixelHash new) new, fun _ hne => indexPixel_set_other s.cache new hne⟩

/-- With room, a chunk that emits ends in the written state, Q_RD one further. -/
theorem emit_settle_of_room (new : Pixel) (updateCache : Bool) {s : State} (hroom : s.cursor.toNat < s.npix.toNat) :
    (emit new updateCache s).settle = .next (emitted new updateCache s).advanceQ := by
  simp [emit_settle, s.not_full_iff.mpr hroom]

/-- Without room, a chunk that emits ends in error entry. -/
theorem emit_settle_of_full (new : Pixel) (updateCache : Bool) {s : State} (hfull : s.npix.toNat ≤ s.cursor.toNat) :
    (emit new updateCache s).settle = .next (s.raise .bufferOverrun) := by
  simp [emit_settle, s.full_iff.mpr hfull]

/-- With room, a chunk that emits with cache update writes, caches and keeps its pixel as PREV. -/
theorem emit_cached_of_room (new : Pixel) {s : State} (hroom : s.cursor.toNat < s.npix.toNat) :
    ∃ t, (emit new true s).settle = .next t ∧ Emitted s t new ∧ CachedAt s t new :=
  ⟨_, emit_settle_of_room new true hroom, emitted_advanceQ_spec new true hroom, emitted_advanceQ_cachedAt new s⟩

end Sys2Proof.Machine
end

section
/-! PROOFS. Decoding a chunk of a known kind (spec 30_encoding.md R68, R104). -/

namespace Sys2Proof

/-- A chunk whose bytes are all there decodes to the fields of the kind its first byte names. -/
theorem decode_of_kindOf {b0 : Byte} {rest : List Byte} {k : ChunkKind} (hkind : kindOf b0 = some k)
    (hwhole : k.need ≤ 8 * (rest.length + 1)) :
    decode (b0 :: rest) = .ok (takeFields k (bytesBits (b0 :: rest)), (b0 :: rest).drop (k.need / 8)) := by
  simp only [decode_cons, hkind, if_neg (Nat.not_lt.mpr hwhole)]

end Sys2Proof
end

section
/-! PROOFS. The literal chunks RGB and RGBA: their bytes and their pixel (spec 43_chunks_rgb_rgba.md R130, R131). -/

namespace Sys2Proof

/-- The bytes behind the tag 0xFE are RGB's three channels, whatever stands behind them (R62). -/
theorem decode_rgb (r g b : Byte) (rest : List Byte) :
    decode (0xFE :: r :: g :: b :: rest) = .ok (.rgb r g b, rest) := by
  have hwhole : ChunkKind.rgb.need ≤ 8 * ((r :: g :: b :: rest).length + 1) := by
    simp only [ChunkKind.need, List.length_cons]
    omega
  rw [decode_of_kindOf (k := .rgb) rfl hwhole, takeFields_rgb]
  rfl

/-- The bytes behind the tag 0xFF are RGBA's four channels, whatever stands behind them (R63). -/
theorem decode_rgba (r g b a : Byte) (rest : List Byte) :
    decode (0xFF :: r :: g :: b :: a :: rest) = .ok (.rgba r g b a, rest) := by
  have hwhole : ChunkKind.rgba.need ≤ 8 * ((r :: g :: b :: a :: rest).length + 1) := by
    simp only [ChunkKind.need, List.length_cons]
    omega
  rw [decode_of_kindOf (k := .rgba) rfl hwhole, takeFields_rgba]
  rfl

end Sys2Proof

namespace Sys2Proof.Machine

theorem exec_rgb (r g b : Byte) (s : State) :
    exec (.rgb r g b) s = (emit ⟨r, g, b, s.prev.a⟩ true s).settle := rfl

theorem exec_rgba (r g b a : Byte) (s : State) :
    exec (.rgba r g b a) s = (emit ⟨r, g, b, a⟩ true s).settle := rfl

/-- Settles O11: RGB emits its three channels with PREV's alpha, with cache update. -/
theorem rgbWritesItsPixel : Obligations.RgbWritesItsPixel := by
  intro r g b s
  rw [exec_rgb]
  exact ⟨decode_rgb r g b [], emit_cached_of_room _, emit_settle_of_full _ true⟩

/-- Settles O12: RGBA emits its four channels, with cache update. -/
theorem rgbaWritesItsPixel : Obligations.RgbaWritesItsPixel := by
  intro r g b a s
  rw [exec_rgba]
  exact ⟨decode_rgba r g b a [], emit_cached_of_room _, emit_settle_of_full _ true⟩

end Sys2Proof.Machine
end

section
/-! PROOFS. The cache back-reference chunk INDEX: its byte and its pixel (spec 44_chunk_index.md R135). -/

namespace Sys2Proof

/-- Any byte with the tag 00 begins an INDEX chunk (R68). -/
theorem kindOf_index (slot : BitVec 6) : kindOf ((0b00 : BitVec 2) ++ slot) = some .index := by
  revert slot
  decide

/-- The byte 00iiiiii is INDEX of its low six bits, whatever stands behind it (R64). -/
theorem decode_index (slot : BitVec 6) (rest : List Byte) :
    decode (((0b00 : BitVec 2) ++ slot) :: rest) = .ok (.index slot, rest) := by
  have hwhole : ChunkKind.index.need ≤ 8 * (rest.length + 1) := by
    simp only [ChunkKind.need]
    omega
  have hslot : ((0b00 : BitVec 2) ++ slot).extractLsb' 0 6 = slot := BitVec.extractLsb'_append_eq_right
  rw [decode_of_kindOf (kindOf_index slot) hwhole, takeFields_index, hslot]
  rfl

end Sys2Proof

namespace Sys2Proof.Machine

open Sys2Proof.Safety

theorem exec_index (slot : BitVec 6) (s : State) :
    exec (.index slot) s = (emit (indexPixel s.cache slot) false s).settle := rfl

/-- With room, a chunk that emits without cache update writes its pixel, keeps it as PREV and leaves the cache alone. -/
theorem emit_uncached_of_room (new : Pixel) {s : State} (hroom : s.cursor.toNat < s.npix.toNat) :
    ∃ t, (emit new false s).settle = .next t ∧ Emitted s t new ∧ t.cache = s.cache :=
  ⟨_, emit_settle_of_room new false hroom, emitted_advanceQ_spec new false hroom, rfl⟩

/-- Settles O13: INDEX emits the pixel its slot holds, without cache update. -/
theorem indexRepeatsTheSlot : Obligations.IndexRepeatsTheSlot := by
  intro slot s
  rw [exec_index]
  exact ⟨decode_index slot [], emit_uncached_of_room _, emit_settle_of_full _ false⟩

end Sys2Proof.Machine
end

section
/-! PROOFS. The delta chunks DIFF and LUMA: their bytes (spec 30_encoding.md R65, R66, R68). -/

namespace Sys2Proof

/-- Any byte with the tag 01 begins a DIFF chunk (R68). -/
theorem kindOf_diff (dr dg db : BitVec 2) : kindOf ((0b01 : BitVec 2) ++ dr ++ dg ++ db) = some .diff := by
  obtain ⟨_, _, hbytes, hkind⟩ := kindOf_encode (i := .diff dr dg db) rfl
  cases hbytes
  exact hkind

/-- Any byte with the tag 10 begins a LUMA chunk (R68). -/
theorem kindOf_luma (dg : BitVec 6) : kindOf ((0b10 : BitVec 2) ++ dg) = some .luma := by
  obtain ⟨_, _, hbytes, hkind⟩ := kindOf_encode (i := .luma dg 0 0) rfl
  cases hbytes
  exact hkind

/-- The three 2-bit fields behind a DIFF byte's tag, by their place in it. -/
theorem extractLsb'_diff_byte (tag dr dg db : BitVec 2) :
    (tag ++ dr ++ dg ++ db).extractLsb' 4 2 = dr ∧ (tag ++ dr ++ dg ++ db).extractLsb' 2 2 = dg ∧
      (tag ++ dr ++ dg ++ db).extractLsb' 0 2 = db := by
  refine ⟨?_, ?_, BitVec.extractLsb'_append_eq_right⟩
  · rw [BitVec.extractLsb'_append_eq_of_le (by decide), BitVec.extractLsb'_append_eq_of_le (by decide)]
    exact BitVec.extractLsb'_append_eq_right
  · rw [BitVec.extractLsb'_append_eq_of_le (by decide)]
    exact BitVec.extractLsb'_append_eq_right

/-- The byte 01rrggbb is DIFF of its three 2-bit fields, whatever stands behind it (R65). -/
theorem decode_diff (dr dg db : BitVec 2) (rest : List Byte) :
    decode (((0b01 : BitVec 2) ++ dr ++ dg ++ db) :: rest) = .ok (.diff dr dg db, rest) := by
  have hwhole : ChunkKind.diff.need ≤ 8 * (rest.length + 1) := by
    simp only [ChunkKind.need]
    omega
  obtain ⟨hdr, hdg, hdb⟩ := extractLsb'_diff_byte 0b01 dr dg db
  rw [decode_of_kindOf (kindOf_diff dr dg db) hwhole, takeFields_diff, hdr, hdg, hdb]
  rfl

/-- The bytes 10gggggg rrrrbbbb are LUMA of their three fields, whatever stands behind them (R66). -/
theorem decode_luma (dg : BitVec 6) (drDg dbDg : BitVec 4) (rest : List Byte) :
    decode (((0b10 : BitVec 2) ++ dg) :: (drDg ++ dbDg) :: rest) = .ok (.luma dg drDg dbDg, rest) := by
  have hwhole : ChunkKind.luma.need ≤ 8 * (((drDg ++ dbDg) :: rest).length + 1) := by
    simp only [ChunkKind.need, List.length_cons]
    omega
  have hdg : ((0b10 : BitVec 2) ++ dg).extractLsb' 0 6 = dg := BitVec.extractLsb'_append_eq_right
  have hdrDg : (drDg ++ dbDg).extractLsb' 4 4 = drDg := BitVec.extractLsb'_append_eq_left
  have hdbDg : (drDg ++ dbDg).extractLsb' 0 4 = dbDg := BitVec.extractLsb'_append_eq_right
  rw [decode_of_kindOf (kindOf_luma dg) hwhole, takeFields_luma, hdg, hdrDg, hdbDg]
  rfl

end Sys2Proof
end

section
/-! PROOFS. The arithmetic of the deltas: byte operations as integers modulo 256, and what a channel plus a stored delta comes
to (spec 00_scope.md R7, 45_chunks_diff_luma.md R140, R141). -/

namespace Sys2Proof.Machine

theorem add8_toInt (x y : Byte) : ((add8 x y).toNat : Int) = ((x.toNat : Int) + y.toNat) % 256 := by
  simp [add8, BitVec.toNat_add]

theorem sub8_toInt (x y : Byte) : ((sub8 x y).toNat : Int) = ((x.toNat : Int) - y.toNat) % 256 := by
  unfold sub8
  bv_omega

/-- Adding a byte that stands for the integer `d` adds `d`, modulo 256. -/
theorem add8_toInt_of_emod (x : Byte) {v : Byte} {d : Int} (h : (v.toNat : Int) = d % 256) :
    ((add8 x v).toNat : Int) = ((x.toNat : Int) + d) % 256 := by
  rw [add8_toInt, h, Int.add_emod_emod]

theorem diffDelta_toInt (d : BitVec 2) : ((diffDelta d).toNat : Int) = ((d.toNat : Int) - 2) % 256 := by
  rw [diffDelta, sub8_toInt, BitVec.toNat_setWidth_of_le (by decide)]
  rfl

theorem lumaG_toInt (dg : BitVec 6) : ((lumaG dg).toNat : Int) = ((dg.toNat : Int) - 32) % 256 := by
  rw [lumaG, sub8_toInt, BitVec.toNat_setWidth_of_le (by decide)]
  rfl

/-- LUMA's red and blue deltas: the two biases 32 and 8 add up to 40. -/
theorem lumaRB_toInt (dg : BitVec 6) (d : BitVec 4) :
    ((lumaRB dg d).toNat : Int) = ((dg.toNat : Int) + d.toNat - 40) % 256 := by
  have hrel : ((sub8 (d.zeroExtend 8) biasLumaRB).toNat : Int) = ((d.toNat : Int) - 8) % 256 := by
    rw [sub8_toInt, BitVec.toNat_setWidth_of_le (by decide)]
    rfl
  rw [lumaRB, add8_toInt_of_emod _ hrel, lumaG_toInt, Int.emod_add_emod]
  congr 1
  omega

theorem add8_diffDelta_toInt (x : Byte) (d : BitVec 2) :
    ((add8 x (diffDelta d)).toNat : Int) = ((x.toNat : Int) + d.toNat - 2) % 256 := by
  rw [add8_toInt_of_emod x (diffDelta_toInt d), Int.add_sub_assoc]

theorem add8_lumaG_toInt (x : Byte) (dg : BitVec 6) :
    ((add8 x (lumaG dg)).toNat : Int) = ((x.toNat : Int) + dg.toNat - 32) % 256 := by
  rw [add8_toInt_of_emod x (lumaG_toInt dg), Int.add_sub_assoc]

theorem add8_lumaRB_toInt (x : Byte) (dg : BitVec 6) (d : BitVec 4) :
    ((add8 x (lumaRB dg d)).toNat : Int) = ((x.toNat : Int) + dg.toNat + d.toNat - 40) % 256 := by
  rw [add8_toInt_of_emod x (lumaRB_toInt dg d), ← Int.add_sub_assoc, ← Int.add_assoc]

end Sys2Proof.Machine
end

section
/-! PROOFS. The delta chunks DIFF and LUMA: what their execution leaves (spec 45_chunks_diff_luma.md R140, R141). -/

namespace Sys2Proof.Machine

theorem exec_diff (dr dg db : BitVec 2) (s : State) :
    exec (.diff dr dg db) s = (emit (diffPixel s.prev dr dg db) true s).settle := rfl

theorem exec_luma (dg : BitVec 6) (drDg dbDg : BitVec 4) (s : State) :
    exec (.luma dg drDg dbDg) s = (emit (lumaPixel s.prev dg drDg dbDg) true s).settle := rfl

/-- Settles O14: DIFF emits, with cache update, the pixel whose channels are PREV's plus the stored deltas less 2. -/
theorem diffAddsItsDeltas : Obligations.DiffAddsItsDeltas := by
  intro dr dg db s
  rw [exec_diff]
  refine ⟨decode_diff dr dg db [], fun hroom => ?_, emit_settle_of_full _ true⟩
  obtain ⟨t, hnext, hemitted, hcached⟩ := emit_cached_of_room (diffPixel s.prev dr dg db) hroom
  exact ⟨t, _, hnext, hemitted, hcached, add8_diffDelta_toInt s.prev.r dr, add8_diffDelta_toInt s.prev.g dg,
    add8_diffDelta_toInt s.prev.b db, rfl⟩

/-- Settles O15: LUMA emits, with cache update, the pixel whose green is PREV's plus the stored delta less 32 and whose red and
blue are PREV's plus that delta and their own less 40. -/
theorem lumaAddsItsDeltas : Obligations.LumaAddsItsDeltas := by
  intro dg drDg dbDg s
  rw [exec_luma]
  refine ⟨decode_luma dg drDg dbDg [], fun hroom => ?_, emit_settle_of_full _ true⟩
  obtain ⟨t, hnext, hemitted, hcached⟩ := emit_cached_of_room (lumaPixel s.prev dg drDg dbDg) hroom
  exact ⟨t, _, hnext, hemitted, hcached, add8_lumaG_toInt s.prev.g dg, add8_lumaRB_toInt s.prev.r dg drDg,
    add8_lumaRB_toInt s.prev.b dg dbDg, rfl⟩

end Sys2Proof.Machine
end

section
/-! PROOFS. The round trip between chunk records and bytes, in both directions (spec 30_encoding.md R73, R99). -/

namespace Sys2Proof

/-- A byte with the tag 11 and a stored run below 62 begins a RUN chunk: 62 and 63 would be the RGB and RGBA tags (R67). -/
theorem kindOf_run {n : BitVec 6} (hn : (Instr.run n).WellFormed) : kindOf ((0b11 : BitVec 2) ++ n) = some .run := by
  obtain ⟨_, _, hbytes, hkind⟩ := kindOf_encode hn
  cases hbytes
  exact hkind

/-- The byte 11nnnnnn is RUN of its low six bits, whatever stands behind it (R67). -/
theorem decode_run {n : BitVec 6} (hn : (Instr.run n).WellFormed) (rest : List Byte) :
    decode (((0b11 : BitVec 2) ++ n) :: rest) = .ok (.run n, rest) := by
  have hwhole : ChunkKind.run.need ≤ 8 * (rest.length + 1) := by
    simp only [ChunkKind.need]
    omega
  have hfield : ((0b11 : BitVec 2) ++ n).extractLsb' 0 6 = n := BitVec.extractLsb'_append_eq_right
  rw [decode_of_kindOf (kindOf_run hn) hwhole, takeFields_run, hfield]
  rfl

/-- Settles O2: each kind's bytes decode to its record. -/
theorem decodeUndoesEncode : Obligations.DecodeUndoesEncode := by
  intro i rest hwf
  cases i with
  | rgb r g b => exact decode_rgb r g b rest
  | rgba r g b a => exact decode_rgba r g b a rest
  | index slot => exact decode_index slot rest
  | diff dr dg db => exact decode_diff dr dg db rest
  | luma dg drDg dbDg => exact decode_luma dg drDg dbDg rest
  | run n => exact decode_run hwf rest

/-! ### From the bytes back -/

/-- A one-byte chunk's byte, and LUMA's first one, is put together again from its tag and its fields. -/
theorem tag_append_fields (b : Byte) :
    (kindOf b = some .index → (0b00 : BitVec 2) ++ b.extractLsb' 0 6 = b) ∧
    (kindOf b = some .diff →
      (0b01 : BitVec 2) ++ b.extractLsb' 4 2 ++ b.extractLsb' 2 2 ++ b.extractLsb' 0 2 = b) ∧
    (kindOf b = some .luma → (0b10 : BitVec 2) ++ b.extractLsb' 0 6 = b) ∧
    (kindOf b = some .run → (0b11 : BitVec 2) ++ b.extractLsb' 0 6 = b) := by
  revert b
  decide

/-- The two full-byte tags begin no other kind. -/
theorem full_tag_of_kindOf (b : Byte) :
    (kindOf b = some .rgb → b = Config.tagRgb) ∧ (kindOf b = some .rgba → b = Config.tagRgba) := by
  revert b
  decide

theorem nibbles_append (b : Byte) : b.extractLsb' 4 4 ++ b.extractLsb' 0 4 = b := by
  revert b
  decide

/-- Encoding the fields cut from a whole chunk gives the chunk's bytes. -/
theorem encode_takeFields {b0 : Byte} {rest : List Byte} {k : ChunkKind} (hkind : kindOf b0 = some k)
    (hwhole : k.need ≤ 8 * (rest.length + 1)) :
    b0 :: rest = encode (takeFields k (bytesBits (b0 :: rest))) ++ (b0 :: rest).drop (k.need / 8) := by
  obtain ⟨hindex, hdiff, hluma, hrun⟩ := tag_append_fields b0
  obtain ⟨hrgb, hrgba⟩ := full_tag_of_kindOf b0
  cases k with
  | rgb =>
    match rest, hwhole with
    | r :: g :: b :: rest, _ => rw [takeFields_rgb, hrgb hkind]; rfl
    | [], h | [_], h | [_, _], h => simp [ChunkKind.need] at h
  | rgba =>
    match rest, hwhole with
    | r :: g :: b :: a :: rest, _ => rw [takeFields_rgba, hrgba hkind]; rfl
    | [], h | [_], h | [_, _], h | [_, _, _], h => simp [ChunkKind.need] at h
  | luma =>
    match rest, hwhole with
    | b1 :: rest, _ => rw [takeFields_luma, encode, hluma hkind, nibbles_append]; rfl
    | [], h => simp [ChunkKind.need] at h
  | index => rw [takeFields_index, encode, hindex hkind]; rfl
  | diff => rw [takeFields_diff, encode, hdiff hkind]; rfl
  | run => rw [takeFields_run, encode, hrun hkind]; rfl

/-- A chunk cut short is Truncated. -/
theorem decode_of_short {b0 : Byte} {rest : List Byte} {k : ChunkKind} (hkind : kindOf b0 = some k)
    (hshort : 8 * (rest.length + 1) < k.need) : decode (b0 :: rest) = .error .truncated := by
  simp only [decode_cons, hkind, if_pos hshort]

/-- Everything `decode` can answer: Truncated, or the fields of a whole chunk of the kind the first byte names. -/
theorem decode_cases (bytes : List Byte) :
    decode bytes = .error .truncated ∨
    ∃ b0 tail k, bytes = b0 :: tail ∧ kindOf b0 = some k ∧ k.need ≤ 8 * (tail.length + 1) ∧
      decode bytes = .ok (takeFields k (bytesBits bytes), bytes.drop (k.need / 8)) := by
  cases bytes with
  | nil => exact .inl rfl
  | cons b0 tail =>
    obtain ⟨k, hkind⟩ := Option.isSome_iff_exists.mp (kindOf_isSome b0)
    by_cases hshort : 8 * (tail.length + 1) < k.need
    · exact .inl (decode_of_short hkind hshort)
    · exact .inr ⟨b0, tail, k, rfl, hkind, Nat.not_lt.mp hshort, decode_of_kindOf hkind (Nat.not_lt.mp hshort)⟩

/-- Settles O3: the only answer with a record is the one of a whole chunk, whose fields encode to its bytes. -/
theorem decodedBytesAreTheEncoding : Obligations.DecodedBytesAreTheEncoding := by
  intro bytes i rest hdecode
  obtain herror | ⟨b0, tail, k, rfl, hkind, hwhole, hok⟩ := decode_cases bytes
  · rw [herror] at hdecode
    cases hdecode
  · rw [hok] at hdecode
    cases hdecode
    have hfirst : field 8 (bytesBits (b0 :: tail)) = b0 := field8_bytesBits b0 _
    refine ⟨takeFields_wf ?_ (by rw [hfirst, hkind]), encode_takeFields hkind hwhole⟩
    rw [bytesBits_length, List.length_cons]
    omega

end Sys2Proof
end

section
/-! PROOFS. The length of a chunk, and the byte-wise parser (spec 41_chunk_parser.md R102, R104). -/

namespace Sys2Proof

/-- The decoder is short of bytes below `firstByteLength`; from it on, it takes that many. -/
theorem decode_first_byte (b0 : Byte) (rest : List Byte) :
    (rest.length + 1 < Encoding.firstByteLength b0 → decode (b0 :: rest) = .error .truncated) ∧
    (Encoding.firstByteLength b0 ≤ rest.length + 1 →
      ∃ i, kindOf b0 = some i.kind ∧ decode (b0 :: rest) = .ok (i, (b0 :: rest).drop (Encoding.firstByteLength b0))) := by
  have hkind := Encoding.kindOf_eq_firstByteKind b0
  have hneed := Encoding.firstByteKind_need b0
  refine ⟨fun hshort => decode_of_short hkind (by omega), fun hwhole => ?_⟩
  refine ⟨takeFields (Encoding.firstByteKind b0) (bytesBits (b0 :: rest)), by rw [takeFields_kind, hkind], ?_⟩
  rw [decode_of_kindOf hkind (by omega), hneed, Nat.mul_div_cancel_left _ (by decide)]

/-- Settles O5: the length R68 gives a first byte is the need of its kind. -/
theorem truncatedExactlyWhenShort : Obligations.TruncatedExactlyWhenShort := decode_first_byte

/-- What is left behind a decoded chunk is a shorter end of the bytes. -/
theorem decode_rest {bytes rest : List Byte} {i : Instr} (h : decode bytes = .ok (i, rest)) :
    rest = bytes.drop (i.kind.need / 8) ∧ rest.length < bytes.length ∧ 8 * (bytes.length - rest.length) = i.kind.need := by
  obtain herror | ⟨b0, tail, k, rfl, _, hwhole, hok⟩ := decode_cases bytes
  · rw [herror] at h
    cases h
  · rw [hok] at h
    cases h
    have hge := k.need_ge
    have hmod := k.need_mod
    refine ⟨by rw [takeFields_kind], ?_, ?_⟩ <;>
    · simp only [List.length_drop, List.length_cons, takeFields_kind]
      omega

/-- The 2-bit tags as ranges of first bytes, the two full-byte tags apart: the dispatch of R102. -/
theorem kindOf_ranges (b : Byte) :
    (b = 0xFE → kindOf b = some .rgb) ∧ (b = 0xFF → kindOf b = some .rgba) ∧
    (b.toNat < 0x40 → kindOf b = some .index) ∧
    (0x40 ≤ b.toNat → b.toNat < 0x80 → kindOf b = some .diff) ∧
    (0x80 ≤ b.toNat → b.toNat < 0xC0 → kindOf b = some .luma) ∧
    (0xC0 ≤ b.toNat → b ≠ 0xFE → b ≠ 0xFF → kindOf b = some .run) := by
  revert b
  decide

end Sys2Proof

namespace Sys2Proof.Machine

/-- One turn of the bit-level decoder in front of the byte-wise parser. -/
def decodeThenParse (bytes : List Byte) : Except ErrKind (List Instr) :=
  match decode bytes with
  | .error e => .error (decodeErrKind e)
  | .ok (i, rest) => consChunk i (parseBytes rest)

theorem decodeThenParse_of_short {b0 : Byte} {rest : List Byte} {k : ChunkKind} (hkind : kindOf b0 = some k)
    (hshort : 8 * (rest.length + 1) < k.need) : decodeThenParse (b0 :: rest) = .error .truncated := by
  rw [decodeThenParse, decode_of_short hkind hshort]
  rfl

theorem decodeThenParse_of_whole {b0 : Byte} {rest : List Byte} {k : ChunkKind} (hkind : kindOf b0 = some k)
    (hwhole : k.need ≤ 8 * (rest.length + 1)) :
    decodeThenParse (b0 :: rest) =
      consChunk (takeFields k (bytesBits (b0 :: rest))) (parseBytes ((b0 :: rest).drop (k.need / 8))) := by
  rw [decodeThenParse, decode_of_kindOf hkind hwhole]

/-- A chunk of one byte is whole whatever stands behind it. -/
theorem decodeThenParse_of_one_byte {b0 : Byte} {rest : List Byte} {k : ChunkKind} (hkind : kindOf b0 = some k)
    (hneed : k.need = 8) :
    decodeThenParse (b0 :: rest) = consChunk (takeFields k (bytesBits (b0 :: rest))) (parseBytes rest) := by
  rw [decodeThenParse_of_whole hkind (by omega), hneed]
  rfl

/-- The byte-wise parser takes the bit-level decoder's chunk and goes on behind it: one case per arm of R102. -/
theorem parseBytes_cons (b0 : Byte) (rest : List Byte) : parseBytes (b0 :: rest) = decodeThenParse (b0 :: rest) := by
  obtain ⟨hrgb, hrgba, hindex, hdiff, hluma, hrun⟩ := kindOf_ranges b0
  unfold parseBytes
  split_ifs with h0 h1 h2 h3 h4
  · have hkind := hrgb h0
    match rest with
    | r :: g :: b :: rest =>
      rw [decodeThenParse_of_whole hkind (by simp [ChunkKind.need]; omega), takeFields_rgb]; rfl
    | [] | [_] | [_, _] => rw [decodeThenParse_of_short hkind (by simp [ChunkKind.need])]
  · have hkind := hrgba h1
    match rest with
    | r :: g :: b :: a :: rest =>
      rw [decodeThenParse_of_whole hkind (by simp [ChunkKind.need]; omega), takeFields_rgba]; rfl
    | [] | [_] | [_, _] | [_, _, _] => rw [decodeThenParse_of_short hkind (by simp [ChunkKind.need])]
  · rw [decodeThenParse_of_one_byte (hindex h2) rfl, takeFields_index]
  · rw [decodeThenParse_of_one_byte (hdiff (by omega) h3) rfl, takeFields_diff]
  · have hkind := hluma (by omega) h4
    match rest with
    | b1 :: rest => rw [decodeThenParse_of_whole hkind (by simp [ChunkKind.need]; omega), takeFields_luma]; rfl
    | [] => rw [decodeThenParse_of_short hkind (by simp [ChunkKind.need])]
  · rw [decodeThenParse_of_one_byte (hrun (by omega) h0 h1) rfl, takeFields_run]

/-- Settles O6: the recursion equation of the byte-wise parser, over every stream. -/
theorem parserIsByteWise : Obligations.ParserIsByteWise :=
  ⟨rfl, parseBytes_cons⟩

/-- The decoder over bytes never refuses with UnknownChunkTag. -/
theorem decode_ne_unknown (bytes : List Byte) : decode bytes ≠ .error .unknownChunkTag := by
  obtain herror | ⟨_, _, _, _, _, _, hok⟩ := decode_cases bytes
  · simp [herror]
  · simp [hok]

/-- Settles O1: the first two vectors are the literal chunks' bytes, the other four the bytes of their kinds. -/
theorem decodesTheSourceVectors : Obligations.DecodesTheSourceVectors :=
  ⟨decode_rgb _ _ _ [], decode_rgba _ _ _ _ [], decode_index 42 [], decode_diff 3 1 0 [],
    decode_luma 0b011010 0b1001 0b0110 [], decode_run (n := 0b011010) rfl []⟩

end Sys2Proof.Machine
end

section
/-! PROOFS. What each chunk leaves, said once: the five emitting kinds in one form, RUN with room and without (spec
42_engine_common.md R111, R112, R114; 46_chunk_run.md R150, R151, R153). -/

namespace Sys2Proof.Machine

open Sys2Proof.Safety

/-! ### The emitting kinds -/

/-- The pixel an emitting chunk makes of PREV and the cache (R130, R131, R135, R140, R141). RUN makes none: it repeats PREV. -/
def State.newPixel (s : State) : Instr → Pixel
  | .rgb r g b => rgbPixel s.prev r g b
  | .rgba r g b a => rgbaPixel r g b a
  | .index slot => indexPixel s.cache slot
  | .diff dr dg db => diffPixel s.prev dr dg db
  | .luma dg drDg dbDg => lumaPixel s.prev dg drDg dbDg
  | .run _ => s.prev

/-- Which chunks write the cache: all that emit but INDEX (R112, 90_conflicts.md C6). -/
def writesCache (i : Instr) : Bool := decide (i.kind ≠ .index)

/-- RGB, RGBA, INDEX, DIFF and LUMA differ in their pixel and the cache flag alone. -/
theorem exec_eq_emit {i : Instr} (hi : i.kind ≠ .run) (s : State) :
    exec i s = (emit (s.newPixel i) (writesCache i) s).settle := by
  cases i with
  | run n => exact absurd rfl hi
  | _ => rfl

/-- With room, an emitting chunk leaves `emitted`, Q_RD one further. -/
theorem exec_of_room {i : Instr} (hi : i.kind ≠ .run) {s : State} (hroom : s.cursor.toNat < s.npix.toNat) :
    exec i s = .next (emitted (s.newPixel i) (writesCache i) s).advanceQ := by
  rw [exec_eq_emit hi, emit_settle_of_room _ _ hroom]

/-- Without room, an emitting chunk is error entry alone. -/
theorem exec_of_full {i : Instr} (hi : i.kind ≠ .run) {s : State} (hfull : s.npix.toNat ≤ s.cursor.toNat) :
    exec i s = .next (s.raise .bufferOverrun) := by
  rw [exec_eq_emit hi, emit_settle_of_full _ _ hfull]

/-- An emitting chunk's two ends, from the state it leaves. -/
theorem exec_emitting_cases {i : Instr} (hi : i.kind ≠ .run) {s t : State} (h : exec i s = .next t) :
    (s.cursor.toNat < s.npix.toNat ∧ t = (emitted (s.newPixel i) (writesCache i) s).advanceQ) ∨
    (s.npix.toNat ≤ s.cursor.toNat ∧ t = s.raise .bufferOverrun) := by
  rcases Nat.lt_or_ge s.cursor.toNat s.npix.toNat with hroom | hfull
  · rw [exec_of_room hi hroom] at h
    cases h
    exact .inl ⟨hroom, rfl⟩
  · rw [exec_of_full hi hfull] at h
    cases h
    exact .inr ⟨hfull, rfl⟩

/-! ### The stretch of the grid a chunk paints -/

/-- From `s` to `t` the `n` entries from the cursor on were painted `px`, with room for them all, and the cursor moved past
them; every other byte of the grid is as it was. -/
def Painted (s t : State) (n : Nat) (px : Pixel) : Prop :=
  s.cursor.toNat + n ≤ s.npix.toNat ∧ t.cursor.toNat = s.cursor.toNat + n ∧
  (∀ j, j < n → Memory.pixelAt t.grid (4 * (s.cursor.toNat + j)) = some px) ∧
  (∀ a, (a < 4 * s.cursor.toNat ∨ 4 * (s.cursor.toNat + n) ≤ a) → Memory.read t.grid a = Memory.read s.grid a)

/-- A chunk that emits paints one entry. -/
theorem painted_emitted (new : Pixel) (u : Bool) {s : State} (hroom : s.cursor.toNat < s.npix.toNat) :
    Painted s (emitted new u s).advanceQ 1 new := by
  obtain ⟨hpx, hother, hcursor, _⟩ := emitted_advanceQ_spec new u hroom
  refine ⟨hroom, hcursor, fun j hj => ?_, fun a ha => hother a ?_⟩
  · obtain rfl := Nat.lt_one_iff.mp hj
    rw [Nat.add_zero, ← s.pixelAddr_eq]
    exact hpx
  · rw [s.pixelAddr_eq]
    omega

/-! ### RUN -/

theorem exec_run (run : BitVec 6) (s : State) :
    exec (.run run) s = (runWrites (run.toNat + 1) (s.setRunRem (run.toNat + 1))).settle := rfl

/-- What RUN leaves with room for all its writes: PREV painted from the cursor on, and nothing else changed but CURSOR, RUN_REM
and Q_RD (R151). -/
def RunCompleted (run : BitVec 6) (s t : State) : Prop :=
  Painted s t (run.toNat + 1) s.prev ∧
  t = { s with grid := t.grid, cursor := t.cursor, runRem := 0, qRd := s.qRd + 1 }

/-- What RUN leaves without that room: the entries from the cursor to the grid's end written, and BufferOverrun (R153). -/
def RunOverran (s t : State) : Prop :=
  (∀ a, (a < 4 * s.cursor.toNat ∨ 4 * max s.cursor.toNat s.npix.toNat ≤ a) → Memory.read t.grid a = Memory.read s.grid a) ∧
  t.cursor.toNat = max s.cursor.toNat s.npix.toNat ∧
  t = { s with grid := t.grid, cursor := t.cursor, runRem := t.runRem, phase := .error, err := .bufferOverrun }

/-- The cursor behind a completed run: the sum does not wrap. -/
theorem cursor_add_toNat {s : State} {n : Nat} (hroom : s.cursor.toNat + n ≤ s.npix.toNat) :
    (s.cursor + BitVec.ofNat 64 n).toNat = s.cursor.toNat + n := by
  have hlt := s.npix.isLt
  rw [BitVec.toNat_add, BitVec.toNat_ofNat, Nat.add_mod_mod, Nat.mod_eq_of_lt (by omega)]

theorem exec_run_of_room {run : BitVec 6} {s : State} (hroom : s.cursor.toNat + (run.toNat + 1) ≤ s.npix.toNat) :
    ∃ t, exec (.run run) s = .next t ∧ RunCompleted run s t := by
  obtain ⟨g, r, hwrites, hrem, hin, hout⟩ := runWrites_ok (s := s.setRunRem (run.toNat + 1)) hroom
  obtain rfl := hrem (Nat.succ_pos _)
  have hexec : exec (.run run) s = .next
      { s with grid := g, cursor := s.cursor + BitVec.ofNat 64 (run.toNat + 1), runRem := 0, qRd := s.qRd + 1 } := by
    rw [exec_run, hwrites]
    rfl
  exact ⟨_, hexec, ⟨hroom, cursor_add_toNat hroom, hin, hout⟩, rfl⟩

theorem exec_run_of_overrun {run : BitVec 6} {s : State} (hover : s.npix.toNat < s.cursor.toNat + (run.toNat + 1)) :
    ∃ t, exec (.run run) s = .next t ∧ RunOverran s t := by
  obtain ⟨u, hfailed, hcursor, hout⟩ :=
    runWrites_failed (s := s.setRunRem (run.toNat + 1)) hover (Nat.succ_pos _)
  obtain ⟨g, c, r, hframe | hframe⟩ := runWrites_frame (run.toNat + 1) (s.setRunRem (run.toNat + 1)) <;>
    rw [hfailed] at hframe <;> cases hframe
  have hexec : exec (.run run) s = .next
      { s with grid := g, cursor := c, runRem := r, phase := .error, err := .bufferOverrun } := by
    rw [exec_run, hfailed]
    rfl
  exact ⟨_, hexec, hout, hcursor, rfl⟩

/-- RUN's two ends, from the state it leaves. -/
theorem exec_run_cases {run : BitVec 6} {s t : State} (h : exec (.run run) s = .next t) :
    RunCompleted run s t ∨ s.npix.toNat < s.cursor.toNat + (run.toNat + 1) ∧ RunOverran s t := by
  rcases Nat.lt_or_ge s.npix.toNat (s.cursor.toNat + (run.toNat + 1)) with hover | hroom
  · obtain ⟨u, hexec, hover'⟩ := exec_run_of_overrun hover
    rw [hexec] at h
    cases h
    exact .inr ⟨hover, hover'⟩
  · obtain ⟨u, hexec, hcompleted⟩ := exec_run_of_room hroom
    rw [hexec] at h
    cases h
    exact .inl hcompleted

theorem eq_run_of_kind {i : Instr} (hi : i.kind = .run) : ∃ n, i = .run n := by
  cases i with
  | run n => exact ⟨n, rfl⟩
  | _ => cases hi

/-! ### The statements about chunks -/

/-- Settles O16: RUN with room for all its writes, and without. -/
theorem runRepeatsPrev : Obligations.RunRepeatsPrev := by
  intro run s
  refine ⟨fun hroom => ?_, fun hover => ?_⟩
  · obtain ⟨t, hexec, ⟨_, hcursor, hin, hout⟩, ht⟩ := exec_run_of_room (run := run) (s := s) (by omega)
    refine ⟨t, hexec, fun j hj => ?_, fun a ha => hout a ?_, hcursor, ht⟩
    · rw [← hin j hj, ← s.pixelAddr_eq]
      rfl
    · simpa only [State.pixelAddr_eq] using ha
  · obtain ⟨t, hexec, _, _, ht⟩ := exec_run_of_overrun (run := run) (s := s) (by omega)
    exact ⟨t, hexec, congrArg State.phase ht, congrArg State.err ht⟩

/-- Settles O17: without room the first write already fails, RUN's after its counter is set. -/
theorem fullGridOverruns : Obligations.FullGridOverruns := by
  intro i s hfull
  by_cases hi : i.kind = .run
  · obtain ⟨n, rfl⟩ := eq_run_of_kind hi
    have hfirst : exec (.run n) s = .next ((s.setRunRem (n.toNat + 1)).raise .bufferOverrun) := by
      have hfull' : (s.setRunRem (n.toNat + 1)).full = true := s.full_iff.mpr hfull
      rw [exec_run, runWrites, hfull']
      rfl
    exact ⟨_, hfirst, rfl, fun hne => absurd rfl hne⟩
  · exact ⟨_, exec_of_full hi hfull, rfl, fun _ => rfl⟩

/-- Settles O18: every chunk ends in `settle`, which answers a next state on both of its arms. -/
theorem everyChunkAnswersANextState : Obligations.EveryChunkAnswersANextState := by
  have hsettle : ∀ w : Writes, ∃ t, w.settle = .next t := fun w => by cases w <;> exact ⟨_, rfl⟩
  intro i s
  cases i <;> exact hsettle _

/-- Settles O19: `emitted` changes the entry, CURSOR, PREV and one slot; error entry changes PHASE and ERR.CODE. -/
theorem emittingChunkFrame : Obligations.EmittingChunkFrame := by
  intro i s t hi h
  obtain ⟨_, rfl⟩ | ⟨_, rfl⟩ := exec_emitting_cases hi h
  · refine ⟨rfl, rfl, rfl, rfl, rfl, rfl, rfl, rfl, rfl, rfl, rfl, rfl, fun k hk => ?_,
      fun _ hapart => s.read_gridWrite_apart _ hapart, .inl ⟨rfl, rfl⟩⟩
    by_cases hindex : i.kind = .index
    · simp [emitted, State.advanceQ, writesCache, hindex]
    · have hwrites : writesCache i = true := by simp [writesCache, hindex]
      rw [hwrites]
      exact indexPixel_set_other s.cache _ (hk.resolve_left hindex)
  · exact ⟨rfl, rfl, rfl, rfl, rfl, rfl, rfl, rfl, rfl, rfl, rfl, rfl, fun _ _ => rfl, fun _ _ => rfl,
      .inr ⟨rfl, rfl, rfl, rfl, rfl, rfl, rfl⟩⟩

/-- A byte outside each of `m` entries from `c` on lies outside the whole stretch they make. -/
theorem outside_stretch {a c m : Nat} (h : ∀ j, j < m → a < 4 * (c + j) ∨ 4 * (c + j) + 4 ≤ a) :
    a < 4 * c ∨ 4 * (c + m) ≤ a := by
  by_contra hinside
  have hentry := h (a / 4 - c) (by omega)
  omega

/-- Settles O20: RUN writes the stretch of entries from the cursor that it has room for. -/
theorem runFrame : Obligations.RunFrame := by
  intro run s t h
  obtain ⟨⟨_, _, _, hout⟩, ht⟩ | ⟨hover, hout, _, ht⟩ := exec_run_cases h
  · rw [ht] at hout ⊢
    refine ⟨rfl, rfl, rfl, rfl, rfl, rfl, rfl, rfl, rfl, rfl, rfl, rfl, rfl, fun a ha => hout a ?_, .inl ⟨rfl, rfl⟩⟩
    simp only [State.pixelAddr_eq] at ha
    exact outside_stretch fun j hj => ha j hj (by omega)
  · rw [ht] at hout ⊢
    refine ⟨rfl, rfl, rfl, rfl, rfl, rfl, rfl, rfl, rfl, rfl, rfl, rfl, rfl, fun a ha => hout a ?_,
      .inr ⟨rfl, rfl, rfl⟩⟩
    simp only [State.pixelAddr_eq] at ha
    have hstretch := outside_stretch (m := s.npix.toNat - s.cursor.toNat) fun j hj => ha j (by omega) (by omega)
    omega

/-- Settles O22: an emitting chunk moves the cursor by one with room for it, a run by its length or up to NPIX. -/
theorem cursorStaysWithinTheGrid : Obligations.CursorStaysWithinTheGrid := by
  intro i s t hle h
  by_cases hi : i.kind = .run
  · obtain ⟨n, rfl⟩ := eq_run_of_kind hi
    obtain ⟨⟨hroom, hcursor, _⟩, ht⟩ | ⟨_, _, hcursor, ht⟩ := exec_run_cases h <;>
    · have hnpix : t.npix = s.npix := by rw [ht]; rfl
      rw [hnpix]
      omega
  · obtain ⟨hroom, rfl⟩ | ⟨_, rfl⟩ := exec_emitting_cases hi h
    · have hsucc := State.cursor_succ_toNat hroom
      change s.cursor.toNat ≤ (s.cursor + 1).toNat ∧ (s.cursor + 1).toNat ≤ s.npix.toNat
      omega
    · exact ⟨Nat.le_refl _, hle⟩

/-- A slot written with its pixel's own hash keeps the cache keyed. -/
theorem cacheKeyed_emitted {s : State} (hkeyed : CacheKeyed s) (new : Pixel) (u : Bool) :
    CacheKeyed (emitted new u s) := by
  intro k
  cases u with
  | false => exact hkeyed k
  | true =>
    obtain ⟨hsame, hother⟩ := emitted_advanceQ_cachedAt new s
    by_cases hk : k = pixelHash new
    · exact .inr (by rw [hk]; exact congrArg pixelHash hsame)
    · have hkept : indexPixel (emitted new true s).cache k = indexPixel s.cache k := hother k hk
      rw [hkept]
      exact hkeyed k

/-- Settles O23: a chunk leaves the cache alone or writes the slot of the new pixel's hash. -/
theorem cacheStaysKeyedByHash : Obligations.CacheStaysKeyedByHash := by
  intro i s t hkeyed h
  by_cases hi : i.kind = .run
  · obtain ⟨n, rfl⟩ := eq_run_of_kind hi
    obtain ⟨_, ht⟩ | ⟨_, _, _, ht⟩ := exec_run_cases h <;>
    · rw [ht]
      exact hkeyed
  · obtain ⟨_, rfl⟩ | ⟨_, rfl⟩ := exec_emitting_cases hi h
    · exact cacheKeyed_emitted hkeyed _ _
    · exact hkeyed

end Sys2Proof.Machine
end

section
/-! PROOFS. What no chunk reads: CHANNELS, COLORSPACE (spec 10_state.md R11) and the model's own counter. -/

namespace Sys2Proof.Machine

/-- CHANNELS, COLORSPACE and the model's own counter set; everything a chunk reads is as before. -/
def State.setUnread (c d : Byte) (n : Nat) (s : State) : State := { s with channels := c, colorspace := d, freeCtr := n }

/-- The same on both ends of a chunk's writes. -/
def Writes.setUnread (c d : Byte) (n : Nat) : Writes → Writes
  | .ok s => .ok (s.setUnread c d n)
  | .failed k s => .failed k (s.setUnread c d n)

theorem State.full_setUnread (c d : Byte) (n : Nat) (s : State) : (s.setUnread c d n).full = s.full := rfl

theorem emit_setUnread (new : Pixel) (u : Bool) (c d : Byte) (n : Nat) (s : State) :
    emit new u (s.setUnread c d n) = (emit new u s).setUnread c d n := by
  rw [emit_eq, emit_eq, State.full_setUnread]
  split <;> rfl

theorem runWrites_setUnread (m : Nat) (c d : Byte) (n : Nat) (s : State) :
    runWrites m (s.setUnread c d n) = (runWrites m s).setUnread c d n := by
  induction m generalizing s with
  | zero => rfl
  | succ m ih =>
    rw [runWrites, runWrites, State.full_setUnread]
    split
    · rfl
    · exact ih ((s.gridWrite s.cursor.toNat s.prev).advanceCursor.setRunRem m)

theorem Writes.settle_setUnread (c d : Byte) (n : Nat) {w : Writes} {t : State} (h : w.settle = .next t) :
    (w.setUnread c d n).settle = .next (t.setUnread c d n) := by
  cases w <;> cases h <;> rfl

theorem State.newPixel_setUnread (c d : Byte) (n : Nat) (s : State) (i : Instr) :
    (s.setUnread c d n).newPixel i = s.newPixel i := by
  cases i <;> rfl

/-- No chunk reads CHANNELS, COLORSPACE or the counter, and none writes them. -/
theorem exec_setUnread (c d : Byte) (n : Nat) {i : Instr} {s t : State} (h : exec i s = .next t) :
    exec i (s.setUnread c d n) = .next (t.setUnread c d n) := by
  by_cases hi : i.kind = .run
  · obtain ⟨m, rfl⟩ := eq_run_of_kind hi
    rw [exec_run] at h ⊢
    change (runWrites (m.toNat + 1) ((s.setRunRem (m.toNat + 1)).setUnread c d n)).settle = _
    rw [runWrites_setUnread]
    exact Writes.settle_setUnread c d n h
  · rw [exec_eq_emit hi] at h ⊢
    rw [State.newPixel_setUnread, emit_setUnread]
    exact Writes.settle_setUnread c d n h

/-- Settles O21: the counter is kept as the chunk leaves it, which is as it was. -/
theorem chunksIgnoreChannelsAndColorspace : Obligations.ChunksIgnoreChannelsAndColorspace := by
  intro i s t c d h
  obtain ⟨g, cur, r, pv, ca, qr, ph, er, rfl, _⟩ := exec_changes h
  exact exec_setUnread c d s.freeCtr h

end Sys2Proof.Machine
end

section
/-! PROOFS. The cache hash over the integers (spec 47_cache_hash.md R155, R156). -/

namespace Sys2Proof.Machine

/-- Reducing modulo 256 on the way changes nothing modulo 64. -/
theorem pixelHash_toNat (px : Pixel) : (pixelHash px).toNat = wideHash px := by
  have hbytes : (pixelHash px).toNat =
      (((px.r.toNat * 3 % 256 + px.g.toNat * 5 % 256) % 256 + px.b.toNat * 7 % 256) % 256 + px.a.toNat * 11 % 256) %
        256 % 64 := by
    simp [pixelHash, add8, mul8, BitVec.extractLsb'_toNat, BitVec.toNat_add, BitVec.toNat_mul]
  rw [hbytes, wideHash]
  omega

/-- Settles O25: the wide form, and modulo 64 each channel may be reduced before the sum. -/
theorem hashEqualsTheWideForm : Obligations.HashEqualsTheWideForm := by
  intro px
  refine ⟨pixelHash_toNat px, ?_⟩
  rw [pixelHash_toNat, wideHash]
  omega

end Sys2Proof.Machine
end

section
/-! PROOFS. The header: parse_header's table of errors, its integers, and the header stage against it (spec
40_header_stage.md R80 to R86). -/

namespace Sys2Proof.Machine

open Sys2Proof.Safety

/-- The record R83 loads from a buffer of 14 bytes or more. -/
def bufferHeader (buf : List Byte) : Header :=
  { width := BitVec.ofNat 32 (beNat 0 ((buf.drop 4).take 4)),
    height := BitVec.ofNat 32 (beNat 0 ((buf.drop 8).take 4)),
    channels := BitVec.ofNat 8 (beNat 0 ((buf.drop 12).take 1)),
    colorspace := BitVec.ofNat 8 (beNat 0 ((buf.drop 13).take 1)) }

theorem parseHeader_of_no_signature {sig : BitVec 32} {buf : List Byte} (hlen : buf.length < 4) :
    parseHeader sig buf = .error .truncated := by
  rw [parseHeader, if_pos hlen]

theorem parseHeader_of_bad_signature {sig : BitVec 32} {buf : List Byte} (hlen : 4 ≤ buf.length)
    (hsig : beNat 0 (buf.take 4) ≠ sig.toNat) : parseHeader sig buf = .error .badSignature := by
  rw [parseHeader, if_neg (by omega), if_pos hsig]

theorem parseHeader_of_short {sig : BitVec 32} {buf : List Byte} (hlen : 4 ≤ buf.length)
    (hsig : beNat 0 (buf.take 4) = sig.toNat) (hshort : buf.length < 14) :
    parseHeader sig buf = .error .truncated := by
  rw [parseHeader, if_neg (by omega), if_neg (not_not.mpr hsig), if_pos hshort]

theorem parseHeader_of_whole {sig : BitVec 32} {buf : List Byte} (hlen : 14 ≤ buf.length)
    (hsig : beNat 0 (buf.take 4) = sig.toNat) : parseHeader sig buf = .ok (bufferHeader buf, buf.drop 14) := by
  rw [parseHeader, if_neg (by omega), if_neg (not_not.mpr hsig), if_neg (by omega)]
  rfl

/-- Settles O27: the four rows of R86. -/
theorem headerErrorsInReadingOrder : Obligations.HeaderErrorsInReadingOrder := fun _ _ =>
  ⟨parseHeader_of_no_signature, parseHeader_of_bad_signature, parseHeader_of_short,
    fun hlen hsig => ⟨_, parseHeader_of_whole hlen hsig⟩⟩

/-- Four bytes as one big-endian number. -/
theorem beNat_four (b0 b1 b2 b3 : Byte) :
    beNat 0 [b0, b1, b2, b3] = b0.toNat * 2 ^ 24 + b1.toNat * 2 ^ 16 + b2.toNat * 2 ^ 8 + b3.toNat := by
  simp only [beNat]
  omega

/-- Four bytes fit in a 32-bit register. -/
theorem ofNat_beNat_four (b0 b1 b2 b3 : Byte) :
    (BitVec.ofNat 32 (beNat 0 [b0, b1, b2, b3])).toNat =
      b0.toNat * 2 ^ 24 + b1.toNat * 2 ^ 16 + b2.toNat * 2 ^ 8 + b3.toNat := by
  have h0 := b0.isLt
  have h1 := b1.isLt
  have h2 := b2.isLt
  have h3 := b3.isLt
  rw [beNat_four, BitVec.toNat_ofNat, Nat.mod_eq_of_lt (by omega)]

theorem ofNat_beNat_one (b : Byte) : BitVec.ofNat 8 (beNat 0 [b]) = b := by
  simp [beNat]

/-- Settles O28: with SIG in front and 14 bytes there, the fields are the bytes at 4, 8, 12 and 13. -/
theorem headerIntegersAreBigEndian : Obligations.HeaderIntegersAreBigEndian := by
  intro sig s0 s1 s2 s3 w0 w1 w2 w3 h0 h1 h2 h3 c d rest hsig
  refine ⟨_, parseHeader_of_whole ?_ ?_, ofNat_beNat_four w0 w1 w2 w3, ofNat_beNat_four h0 h1 h2 h3,
    ofNat_beNat_one c, ofNat_beNat_one d⟩
  · simp only [List.length_cons]
    omega
  · exact (beNat_four s0 s1 s2 s3).trans hsig

/-! ### The header stage -/

/-- The field reads of the header stage find the record of the buffer. -/
theorem readHeader_of_buffer {s : State} {buf : List Byte} (hbytes : Memory.bytes s.ibuf 0 buf.length = some buf)
    (hlen : 14 ≤ buf.length) : s.readHeader = .ok (bufferHeader buf) := by
  have hread {a n : Nat} (hn : a + n ≤ 14) := State.memRead_of_bytes hbytes (a := a) (n := n) (by omega)
  rw [State.readHeader, hread (by decide), hread (by decide), hread (by decide), hread (by decide)]
  rfl

/-- The header loaded fits the grid or does not, by the product of its two fields. -/
theorem npix_loadHeader (s : State) (h : Header) :
    (s.loadHeader h).npix.toNat = h.width.toNat * h.height.toNat :=
  State.npix_toNat _

/-- A buffer parse_header refuses: the stage raises the same error. -/
theorem headerStage_of_error {p : Params} {s : State} {buf : List Byte} (hbuf : HoldsBuffer s buf) {k : ErrKind}
    (hparse : parseHeader p.sig buf = .error k) : headerStage p s = .next (s.raise k) := by
  obtain ⟨hlen, hbytes⟩ := hbuf
  rw [headerStage, hlen]
  unfold Config.sigLen Config.hdrLen
  by_cases h4 : buf.length < 4
  · rw [parseHeader_of_no_signature h4] at hparse
    cases hparse
    rw [if_pos h4]
  · rw [if_neg h4, State.memRead_of_bytes hbytes (by omega)]
    by_cases hsig : beNat 0 (buf.take 4) = p.sig.toNat
    · by_cases h14 : buf.length < 14
      · rw [parseHeader_of_short (by omega) hsig h14] at hparse
        cases hparse
        simp [hsig, h14]
      · rw [parseHeader_of_whole (by omega) hsig] at hparse
        cases hparse
    · rw [parseHeader_of_bad_signature (by omega) hsig] at hparse
      cases hparse
      simp [hsig]

/-- What parse_header accepts has 14 bytes or more, SIG in front, and is the buffer's record. -/
theorem parseHeader_ok {sig : BitVec 32} {buf rest : List Byte} {h : Header}
    (hparse : parseHeader sig buf = .ok (h, rest)) :
    14 ≤ buf.length ∧ beNat 0 (buf.take 4) = sig.toNat ∧ h = bufferHeader buf ∧ rest = buf.drop 14 := by
  rw [parseHeader] at hparse
  split_ifs at hparse with h4 hsig h14
  cases hparse
  exact ⟨by omega, not_not.mp hsig, rfl, rfl⟩

/-- A buffer parse_header accepts: the stage loads the header, or refuses one too large for the grid. -/
theorem headerStage_of_ok {p : Params} {s : State} {buf rest : List Byte} {h : Header} (hbuf : HoldsBuffer s buf)
    (hparse : parseHeader p.sig buf = .ok (h, rest)) :
    headerStage p s =
      if p.gridCap < h.width.toNat * h.height.toNat then .refused .launchOverGridCap else .next (s.loadHeader h) := by
  obtain ⟨hlen, hbytes⟩ := hbuf
  obtain ⟨h14, hsig, rfl, rfl⟩ := parseHeader_ok hparse
  rw [headerStage, hlen, readHeader_of_buffer hbytes h14, State.memRead_of_bytes hbytes (n := Config.sigLen)
    (by simp only [Config.sigLen]; omega)]
  simp only [Config.sigLen, Config.hdrLen, List.drop_zero, hsig, npix_loadHeader]
  rw [if_neg (by omega), if_neg (not_not.mpr rfl), if_neg (by omega)]

theorem stepWith_core {p : Params} {s : State} (hin : s.inputs = []) : stepWith p s = coreStep p s := by
  rw [stepWith, hin]

/-- Settles O26: the step in HDR is the header stage, by parse_header's answer. -/
theorem headerStageIsParseHeader : Obligations.HeaderStageIsParseHeader := by
  intro p s buf hin hphase hbuf
  rw [stepWith_core hin, coreStep_hdr hphase]
  cases hparse : parseHeader p.sig buf with
  | error k => exact headerStage_of_error hbuf hparse
  | ok hr =>
    obtain ⟨h, rest⟩ := hr
    exact headerStage_of_ok hbuf hparse

end Sys2Proof.Machine
end

section
/-! PROOFS. One step of the parser at a byte boundary, against the decoder over bytes (spec 41_chunk_parser.md R93 to R101). -/

namespace Sys2Proof

theorem decodeBits_of_short {b0 : Byte} {rest : List Byte} {k : ChunkKind} (hkind : kindOf b0 = some k)
    (hshort : 8 * (rest.length + 1) < k.need) : decodeBits (bytesBits (b0 :: rest)) = .error .truncated := by
  have hfirst : field 8 (bytesBits (b0 :: rest)) = b0 := field8_bytesBits b0 _
  rw [decodeBits, bytesBits_length, List.length_cons, if_neg (by omega), hfirst, hkind]
  exact if_pos hshort

theorem decodeBits_of_whole {b0 : Byte} {rest : List Byte} {k : ChunkKind} (hkind : kindOf b0 = some k)
    (hwhole : k.need ≤ 8 * (rest.length + 1)) :
    decodeBits (bytesBits (b0 :: rest)) =
      .ok (takeFields k (bytesBits (b0 :: rest)), (bytesBits (b0 :: rest)).drop k.need) := by
  have hfirst : field 8 (bytesBits (b0 :: rest)) = b0 := field8_bytesBits b0 _
  rw [decodeBits, bytesBits_length, List.length_cons, if_neg (by omega), hfirst, hkind]
  exact if_neg (Nat.not_lt.mpr hwhole)

end Sys2Proof

namespace Sys2Proof.Machine

theorem State.bitPos_of_boundary {s : State} (ho : s.bitOff = 0) : s.bitPos = 8 * s.byteIdx := by
  simp [State.bitPos, ho]

theorem State.remBits_of_boundary {s : State} (ho : s.bitOff = 0) : s.remBits = 8 * (s.bufLen - s.byteIdx) := by
  rw [State.remBits, State.bitPos_of_boundary ho]
  omega

/-- A chunk accepted at a byte boundary: the cursor moves on by its bytes, and RECON is entered at the end of the stream. -/
theorem State.acceptChunk_of_boundary {s : State} (ho : s.bitOff = 0) (i : Instr) :
    s.acceptChunk i =
      { s with
        q := s.q ++ [i]
        byteIdx := s.byteIdx + i.kind.need / 8
        phase := if s.bufLen ≤ s.byteIdx + i.kind.need / 8 then .recon else s.phase } := by
  have hmod := i.kind.need_mod
  have hidx : (8 * s.byteIdx + i.kind.need) / 8 = s.byteIdx + i.kind.need / 8 := by omega
  have hoff : (8 * s.byteIdx + i.kind.need) % 8 = 0 := by omega
  have hmoved : (s.pushChunk i).advancePc i.kind.need =
      { s with q := s.q ++ [i], byteIdx := s.byteIdx + i.kind.need / 8 } := by
    rw [State.advancePc, State.bitPos_pushChunk, State.bitPos_of_boundary ho, hidx, hoff]
    cases s
    cases ho
    rfl
  rw [State.acceptChunk_eq, hmoved, State.remBits_of_boundary (by exact ho)]
  simp only [Nat.mul_eq_zero, OfNat.ofNat_ne_zero, false_or, Nat.sub_eq_zero_iff_le]

section Boundary

variable {s : State} {bs : List Byte}

/-- A chunk cut short by BUF_LEN is Truncated (R93). -/
theorem parseStep_of_truncated (ho : s.bitOff = 0) (hb : Memory.bytes s.ibuf s.byteIdx (s.bufLen - s.byteIdx) = some bs)
    (hne : bs ≠ []) (hdecode : decode bs = .error .truncated) : parseStep s = .next (s.raise .truncated) := by
  obtain _ | ⟨b0, tail⟩ := bs
  · exact absurd rfl hne
  obtain ⟨k, hkind⟩ := Option.isSome_iff_exists.mp (kindOf_isSome b0)
  have hshort : 8 * (tail.length + 1) < k.need := by
    by_contra hwhole
    rw [decode_of_kindOf hkind (Nat.not_lt.mp hwhole)] at hdecode
    cases hdecode
  have hwindow := State.chunkWindow_bytes ho hb hkind
  rw [if_pos hshort] at hwindow
  rw [parseStep, hwindow]
  simp only [decodeBits_of_short (rest := []) hkind (by simp only [List.length_nil]; omega)]
  rfl

/-- A chunk that is all there is accepted (R94 to R99). -/
theorem parseStep_of_decoded {i : Instr} {rest : List Byte} (ho : s.bitOff = 0)
    (hb : Memory.bytes s.ibuf s.byteIdx (s.bufLen - s.byteIdx) = some bs) (hdecode : decode bs = .ok (i, rest)) :
    parseStep s = .next (s.acceptChunk i) := by
  obtain herror | ⟨b0, tail, k, rfl, hkind, hwhole, hok⟩ := decode_cases bs
  · rw [herror] at hdecode
    cases hdecode
  rw [hok] at hdecode
  cases hdecode
  have hwindow := State.chunkWindow_bytes ho hb hkind
  rw [if_neg (Nat.not_lt.mpr hwhole)] at hwindow
  obtain ⟨n, hn⟩ : ∃ n, k.need / 8 = n + 1 := ⟨k.need / 8 - 1, by have := k.need_ge; omega⟩
  have htake : (b0 :: tail).take (k.need / 8) = b0 :: tail.take n := by rw [hn]; rfl
  have hlen : k.need ≤ 8 * ((tail.take n).length + 1) := by
    rw [List.length_take]
    have := k.need_mod
    omega
  have hfields := takeFields_take (b0 := b0) hwhole
  rw [htake] at hwindow hfields
  rw [parseStep, hwindow]
  simp only [decodeBits_of_whole hkind hlen, hfields]

/-- A turn of the parser's loop is the decoder's answer at the cursor. -/
theorem parseStep_of_bytes (ho : s.bitOff = 0) (hb : Memory.bytes s.ibuf s.byteIdx (s.bufLen - s.byteIdx) = some bs)
    (hne : bs ≠ []) :
    (decode bs = .error .truncated ∧ parseStep s = .next (s.raise .truncated)) ∨
    ∃ i rest, decode bs = .ok (i, rest) ∧ rest.length < bs.length ∧
      Memory.bytes s.ibuf (s.bufLen - rest.length) rest.length = some rest ∧
      parseStep s = .next { s with
        q := s.q ++ [i]
        byteIdx := s.bufLen - rest.length
        phase := if rest = [] then .recon else s.phase } := by
  cases hdecode : decode bs with
  | error e =>
    cases e with
    | truncated => exact .inl ⟨rfl, parseStep_of_truncated ho hb hne hdecode⟩
    | unknownChunkTag => exact absurd hdecode (decode_ne_unknown bs)
  | ok ir =>
    obtain ⟨i, rest⟩ := ir
    obtain ⟨hrest, hshorter, hneed⟩ := decode_rest hdecode
    have hlen := Memory.bytes_length hb
    have hidx : s.byteIdx + i.kind.need / 8 = s.bufLen - rest.length := by omega
    have hdrop := Memory.bytes_drop hb (k := i.kind.need / 8) (by omega)
    rw [hidx, ← hrest, show s.bufLen - s.byteIdx - i.kind.need / 8 = rest.length by omega] at hdrop
    refine .inr ⟨i, rest, rfl, hshorter, hdrop, ?_⟩
    have hend : s.bufLen ≤ s.bufLen - rest.length ↔ rest = [] := by
      rw [← List.length_eq_zero_iff]
      omega
    rw [parseStep_of_decoded ho hb hdecode, State.acceptChunk_of_boundary ho, hidx]
    simp only [hend]

end Boundary

/-- Settles O8: with no byte left the engine's step, else the decoder's answer. -/
theorem parseStepQueuesTheDecodedChunk : Obligations.ParseStepQueuesTheDecodedChunk := by
  intro p s bs hin hphase ho hle hb
  rw [stepWith_core hin, coreStep_parse hphase, parseStage, State.remBits_of_boundary ho, ← Memory.bytes_length hb]
  by_cases hnil : bs = []
  · subst hnil
    rfl
  · have hlen : 8 * bs.length ≠ 0 := by
      have := List.length_pos_of_ne_nil hnil
      omega
    rw [if_neg hlen, if_neg hnil]
    obtain ⟨hdecode, hstep⟩ | ⟨i, rest, hdecode, _, _, hstep⟩ := parseStep_of_bytes ho hb hnil
    · rw [hstep, hdecode]
      rfl
    · rw [hstep, hdecode, hphase]

end Sys2Proof.Machine
end

section
/-! PROOFS. What a core step can do, said once, and what follows for the phase machine (spec 48_host_commands_and_sequence.md
R161, R163; 60_exceptions.md R173, R179; 10_state.md R11, R18, R26). -/

namespace Sys2Proof.Machine

open Sys2Proof.Safety

/-- The core's step is the engine's: in RECON, and in PARSE with the stream exhausted (log 1). -/
def EngineDue (s : State) : Prop := s.phase = .recon ∨ (s.phase = .parse ∧ s.remBits = 0)

theorem State.setPhase_of_phase {s : State} {ph : Phase} (h : s.phase = ph) : s.setPhase ph = s := by
  cases s
  cases h
  rfl

theorem coreStep_of_engineDue {p : Params} {s : State} (h : EngineDue s) :
    coreStep p s = reconStep (s.setPhase .recon) := by
  obtain hrecon | ⟨hparse, hrem⟩ := h
  · rw [coreStep_recon hrecon, State.setPhase_of_phase hrecon]
  · rw [coreStep_parse hparse, parseStage, if_pos hrem]

theorem reconStep_of_record {s : State} {i : Instr} (hi : s.q[s.qRd]? = some i) : reconStep s = exec i s := by
  rw [reconStep, hi]

theorem reconStep_of_end {s : State} (hend : s.q[s.qRd]? = none) : reconStep s = terminationTest s := by
  rw [reconStep, hend]

/-- Everything a core step can be, when it answers a next state. -/
theorem coreStep_cases {p : Params} {s t : State} (h : coreStep p s = .next t) :
    (s.phase = .idle ∧ t = s) ∨
    (s.phase = .hdr ∧ headerStage p s = .next t) ∨
    (s.phase = .parse ∧ s.remBits ≠ 0 ∧ parseStep s = .next t) ∨
    (EngineDue s ∧ reconStep (s.setPhase .recon) = .next t) ∨
    ((s.phase = .done ∨ s.phase = .error) ∧ t = s.discard) := by
  cases hphase : s.phase with
  | idle => rw [coreStep_idle hphase] at h; cases h; exact .inl ⟨rfl, rfl⟩
  | hdr => rw [coreStep_hdr hphase] at h; exact .inr (.inl ⟨rfl, h⟩)
  | parse =>
    rw [coreStep_parse hphase] at h
    obtain ⟨hrem, hstep⟩ | ⟨hrem, hstep⟩ := parseStage_cases h
    · exact .inr (.inr (.inr (.inl ⟨.inr ⟨hphase, hrem⟩, hstep⟩)))
    · exact .inr (.inr (.inl ⟨rfl, hrem, hstep⟩))
  | recon =>
    rw [coreStep_of_engineDue (.inl hphase)] at h
    exact .inr (.inr (.inr (.inl ⟨.inl hphase, h⟩)))
  | done => rw [coreStep_done hphase] at h; cases h; exact .inr (.inr (.inr (.inr ⟨.inl rfl, rfl⟩)))
  | error => rw [coreStep_error hphase] at h; cases h; exact .inr (.inr (.inr (.inr ⟨.inr rfl, rfl⟩)))

/-- What an engine step may change, and its three ends: a chunk run, DONE, or one of the engine's errors. -/
theorem reconStep_changes {s t : State} (h : reconStep (s.setPhase .recon) = .next t) :
    ∃ g c r pv ca qr ph er,
      t = { s with grid := g, cursor := c, runRem := r, prev := pv, cache := ca, qRd := qr, phase := ph, err := er } ∧
      (qr = s.qRd + 1 ∧ ph = .recon ∧ er = s.err ∨ qr = s.qRd ∧ ph = .done ∧ er = s.err ∨
        qr = s.qRd ∧ ph = .error ∧ (er = .bufferOverrun ∨ er = .incompleteImage)) := by
  obtain ⟨i, _, hexec⟩ | ⟨_, ⟨_, rfl⟩ | ⟨_, rfl⟩⟩ := reconStep_cases h
  · obtain ⟨g, c, r, pv, ca, qr, ph, er, rfl, hend⟩ := exec_changes hexec
    refine ⟨g, c, r, pv, ca, qr, ph, er, rfl, ?_⟩
    obtain hrun | ⟨hqr, hph, her⟩ := hend
    · exact .inl hrun
    · exact .inr (.inr ⟨hqr, hph, .inl her⟩)
  · exact ⟨s.grid, s.cursor, s.runRem, s.prev, s.cache, s.qRd, .done, s.err, rfl, .inr (.inl ⟨rfl, rfl, rfl⟩)⟩
  · exact ⟨s.grid, s.cursor, s.runRem, s.prev, s.cache, s.qRd, .error, .incompleteImage, rfl,
      .inr (.inr ⟨rfl, rfl, .inr rfl⟩)⟩

/-- What accepting a chunk may change: Q, the bit cursor, and PHASE, which leaves PARSE only at the end of the stream. -/
theorem State.acceptChunk_changes (s : State) (i : Instr) :
    ∃ idx off ph, s.acceptChunk i = { s with q := s.q ++ [i], byteIdx := idx, bitOff := off, phase := ph } ∧
      (ph = s.phase ∨ ph = .recon ∧ (s.acceptChunk i).remBits = 0) := by
  refine ⟨_, _, _, s.acceptChunk_eq i, ?_⟩
  by_cases hrem : ((s.pushChunk i).advancePc i.kind.need).remBits = 0
  · rw [if_pos hrem, State.acceptChunk, if_pos hrem]
    exact .inr ⟨rfl, hrem⟩
  · exact .inl (if_neg hrem)

/-- What a turn of the parser's loop may change: it raises Truncated, or accepts one chunk. -/
theorem parseStep_changes {s t : State} (h : parseStep s = .next t) :
    t = s.raise .truncated ∨
    ∃ i idx off ph, t = { s with q := s.q ++ [i], byteIdx := idx, bitOff := off, phase := ph } ∧
      (ph = s.phase ∨ ph = .recon ∧ t.remBits = 0) := by
  obtain rfl | ⟨i, _, _, _, _, rfl⟩ := parseStep_cases h
  · exact .inl rfl
  · obtain ⟨idx, off, ph, heq, hph⟩ := s.acceptChunk_changes i
    exact .inr ⟨i, idx, off, ph, heq, hph⟩

/-! ### The phase machine -/

/-- Settles O32: each kind of core step ends in a phase R161 lists for it. -/
theorem onlyTheListedTransitions : Obligations.OnlyTheListedTransitions := by
  intro p s t h
  obtain ⟨hphase, rfl⟩ | ⟨hphase, hstage⟩ | ⟨hphase, _, hparse⟩ | ⟨hdue, hrecon⟩ | ⟨hphase, rfl⟩ := coreStep_cases h
  · exact .inl (by rw [hphase]; rfl)
  · obtain ⟨k, rfl, _⟩ | ⟨hd, rfl, _⟩ := headerStage_cases hstage <;> exact .inl (by rw [hphase]; rfl)
  · obtain rfl | ⟨_, _, _, ph, rfl, hph⟩ := parseStep_changes hparse
    · exact .inl (by rw [hphase]; rfl)
    · obtain rfl | ⟨rfl, _⟩ := hph <;> exact .inl (by simp [hphase, coreTransition])
  · have hfrom : coreTransition .recon t.phase = true := by
      obtain ⟨_, _, _, _, _, _, ph, _, rfl, ⟨_, rfl, _⟩ | ⟨_, rfl, _⟩ | ⟨_, rfl, _⟩⟩ := reconStep_changes hrecon <;> rfl
    obtain hphase | ⟨hphase, hrem⟩ := hdue
    · exact .inl (by rw [hphase, hfrom])
    · exact .inr ⟨hphase, hrem, hfrom⟩
  · obtain hphase | hphase := hphase <;> exact .inl (by simp [hphase, coreTransition])

/-- Settles O33: `raise` is called with the stage's own kinds, and nothing else writes ERR.CODE in a core step. -/
theorem stagesRaiseTheirOwnErrors : Obligations.StagesRaiseTheirOwnErrors := by
  intro p s t h
  obtain ⟨hphase, rfl⟩ | ⟨hphase, hstage⟩ | ⟨hphase, _, hparse⟩ | ⟨hdue, hrecon⟩ | ⟨hphase, rfl⟩ := coreStep_cases h
  · exact .inr ⟨rfl, id⟩
  · obtain ⟨k, rfl, rfl | rfl⟩ | ⟨hd, rfl, _⟩ := headerStage_cases hstage
    · exact .inl (by simp [hphase, stageRaises])
    · exact .inl (by simp [hphase, stageRaises])
    · exact .inr ⟨rfl, nofun⟩
  · obtain rfl | ⟨_, _, _, ph, rfl, hph⟩ := parseStep_changes hparse
    · exact .inl (by simp [hphase, stageRaises])
    · obtain rfl | ⟨rfl, _⟩ := hph
      · exact .inr ⟨rfl, id⟩
      · exact .inr ⟨rfl, nofun⟩
  · obtain ⟨_, _, _, _, _, _, _, er, rfl, ⟨_, rfl, rfl⟩ | ⟨_, rfl, rfl⟩ | ⟨_, rfl, her⟩⟩ := reconStep_changes hrecon
    · exact .inr ⟨rfl, nofun⟩
    · exact .inr ⟨rfl, nofun⟩
    · have hraises : stageRaises .recon er = true := by obtain rfl | rfl := her <;> rfl
      obtain hphase | ⟨hphase, hrem⟩ := hdue
      · exact .inl ⟨rfl, by simp [hphase], .inl (by rw [hphase]; exact hraises)⟩
      · exact .inl ⟨rfl, by simp [hphase], .inr ⟨hphase, hrem, hraises⟩⟩
  · exact .inr ⟨rfl, id⟩

/-- Settles O34: from another phase, RECON is entered by the last chunk accepted, or by the engine's step in PARSE. -/
theorem engineWaitsForTheWholeStream : Obligations.EngineWaitsForTheWholeStream := by
  intro p s t h hs ht
  obtain ⟨ms, hcore | rfl | ⟨_, _, rfl⟩ | ⟨_, _, _, rfl⟩ | ⟨_, _, _, _, rfl⟩ | rfl⟩ := stepWith_cases h
  · obtain ⟨_, rfl⟩ | ⟨_, hstage⟩ | ⟨hphase, _, hparse⟩ | ⟨hdue, hrecon⟩ | ⟨_, rfl⟩ := coreStep_cases hcore
    · exact absurd ht hs
    · obtain ⟨_, rfl, _⟩ | ⟨_, rfl, _⟩ := headerStage_cases hstage <;> cases ht
    · obtain rfl | ⟨_, _, _, _, rfl, hph | ⟨_, hrem⟩⟩ := parseStep_changes hparse
      · cases ht
      · exact absurd (hph ▸ ht) hs
      · exact ⟨hphase, hrem⟩
    · obtain hphase | ⟨hphase, hrem⟩ := hdue
      · exact absurd hphase hs
      · obtain ⟨_, _, _, _, _, _, _, _, rfl, _⟩ := reconStep_changes hrecon
        exact ⟨hphase, hrem⟩
    · exact absurd ht hs
  · exact absurd ht hs
  · cases ht
  · exact absurd ht hs
  · exact absurd ht hs
  · cases ht

/-- Settles O35: `loadHeader` is the one update of the header registers in a core step, and none writes IBUF or BUF_LEN. -/
theorem coreLeavesInputAlone : Obligations.CoreLeavesInputAlone := by
  intro p s t h
  obtain ⟨_, rfl⟩ | ⟨hphase, hstage⟩ | ⟨_, _, hparse⟩ | ⟨_, hrecon⟩ | ⟨_, rfl⟩ := coreStep_cases h
  · exact ⟨rfl, rfl, rfl, fun _ => ⟨rfl, rfl, rfl, rfl⟩⟩
  · obtain ⟨_, rfl, _⟩ | ⟨_, rfl, _⟩ := headerStage_cases hstage <;>
      exact ⟨rfl, rfl, rfl, fun hne => absurd hphase hne⟩
  · obtain rfl | ⟨_, _, _, _, rfl, _⟩ := parseStep_changes hparse <;>
      exact ⟨rfl, rfl, rfl, fun _ => ⟨rfl, rfl, rfl, rfl⟩⟩
  · obtain ⟨_, _, _, _, _, _, _, _, rfl, _⟩ := reconStep_changes hrecon
    exact ⟨rfl, rfl, rfl, fun _ => ⟨rfl, rfl, rfl, rfl⟩⟩
  · exact ⟨rfl, rfl, rfl, fun _ => ⟨rfl, rfl, rfl, rfl⟩⟩

/-- Settles O36: accepting a chunk appends it, and a chunk run or the termination test keeps Q. -/
theorem queueIsFirstInFirstOut : Obligations.QueueIsFirstInFirstOut := by
  intro p s t h
  refine ⟨fun hphase hrem => ?_, fun hdue => ?_⟩
  · rw [coreStep_parse hphase, parseStage, if_neg hrem] at h
    obtain rfl | ⟨i, _, _, _, rfl, _⟩ := parseStep_changes h
    · exact ⟨rfl, .inl rfl⟩
    · exact ⟨rfl, .inr ⟨i, rfl⟩⟩
  · rw [coreStep_of_engineDue hdue] at h
    obtain ⟨_, _, _, _, _, qr, _, _, rfl, ⟨rfl, _⟩ | ⟨rfl, _⟩ | ⟨rfl, _⟩⟩ := reconStep_changes h
    · exact ⟨rfl, .inr rfl⟩
    · exact ⟨rfl, .inl rfl⟩
    · exact ⟨rfl, .inl rfl⟩

/-! ### ERR.CODE -/

/-- No stage raises NONE or UnknownChunkTag. -/
theorem stageRaises_kind {ph : Phase} {k : ErrKind} (h : stageRaises ph k = true) :
    k ≠ .noError ∧ k ≠ .unknownChunkTag := by
  cases k with
  | noError => cases ph <;> cases h
  | unknownChunkTag => cases ph <;> cases h
  | _ => exact ⟨nofun, nofun⟩

/-- A core step either enters ERROR with a kind some stage raises, or keeps ERR.CODE and does not enter ERROR. -/
theorem coreStep_err {p : Params} {s t : State} (h : coreStep p s = .next t) :
    (t.phase = .error ∧ t.err ≠ .noError ∧ t.err ≠ .unknownChunkTag) ∨
    (t.err = s.err ∧ (t.phase = .error ↔ s.phase = .error)) := by
  obtain ⟨hphase, _, hraises⟩ | ⟨herr, henter⟩ := stagesRaiseTheirOwnErrors p s t h
  · obtain hraises | ⟨_, _, hraises⟩ := hraises <;> exact .inl ⟨hphase, stageRaises_kind hraises⟩
  · refine .inr ⟨herr, henter, fun hs => ?_⟩
    rw [coreStep_error hs] at h
    cases h
    exact hs

/-- Settles O7: the decoder's dispatch is total, and no stage raises it. -/
theorem unknownChunkTagNeverRaised : Obligations.UnknownChunkTagNeverRaised := by
  refine ⟨decode_ne_unknown, fun p s t h hs => ?_⟩
  obtain ⟨ms, hcore | rfl | ⟨_, _, rfl⟩ | ⟨_, _, _, rfl⟩ | ⟨_, _, _, _, rfl⟩ | rfl⟩ := stepWith_cases h
  · obtain ⟨_, _, hne⟩ | ⟨herr, _⟩ := coreStep_err hcore
    · exact hne
    · rw [herr]
      exact hs
  · exact hs
  · nofun
  · exact hs
  · exact hs
  · nofun

/-- Settles O45: a core step by `coreStep_err`; START and reset clear ERR.CODE and leave ERROR; the other moves touch neither. -/
theorem errorCodeExactlyInError : Obligations.ErrorCodeExactlyInError := by
  intro p s t hs h
  obtain ⟨ms, hcore | rfl | ⟨_, _, rfl⟩ | ⟨_, _, _, rfl⟩ | ⟨_, _, _, _, rfl⟩ | rfl⟩ := stepWith_cases h
  · obtain ⟨hphase, hne, _⟩ | ⟨herr, hphase⟩ := coreStep_err hcore
    · exact ⟨fun _ => hphase, fun _ => hne⟩
    · rw [herr, hphase]
      exact hs
  · exact hs
  · exact ⟨fun hne => absurd rfl hne, nofun⟩
  · exact hs
  · exact hs
  · exact ⟨fun hne => absurd rfl hne, nofun⟩

end Sys2Proof.Machine
end

section
/-! PROOFS. The engine's and the idle core's steps, one by one (spec 42_engine_common.md R114, R115;
48_host_commands_and_sequence.md R161; 70_reset_and_hazards.md R191). -/

namespace Sys2Proof.Machine

open Sys2Proof.Safety

theorem stepWith_tick {p : Params} {s : State} {ms : List HostMove} (hin : s.inputs = .tick :: ms) :
    stepWith p s = coreStep p (s.setInputs ms) := by
  rw [stepWith, hin]
  rfl

/-- Settles O52: `stepWith` takes the core's step in both cases. -/
theorem coreStepsWhenNoMoveIsDue : Obligations.CoreStepsWhenNoMoveIsDue := fun _ _ =>
  ⟨stepWith_core, fun _ => stepWith_tick⟩

theorem coreStep_of_record {p : Params} {s : State} {i : Instr} (hphase : s.phase = .recon) (hi : s.q[s.qRd]? = some i) :
    coreStep p s = exec i s := by
  rw [coreStep_recon hphase, reconStep_of_record hi]

/-- Settles O9: in RECON the core's step is the engine's, of the record at Q_RD. -/
theorem engineStepRunsTheQueuedChunk : Obligations.EngineStepRunsTheQueuedChunk := by
  intro p s i hphase hi
  refine ⟨fun hin => ?_, fun ms hin => ?_⟩
  · rw [stepWith_core hin, coreStep_of_record hphase hi]
  · rw [stepWith_tick hin]
    exact coreStep_of_record hphase hi

/-- Settles O10: the placed record is the only one in Q, and RECON runs it. -/
theorem placedWordRunsNext : Obligations.PlacedWordRunsNext := by
  intro p s nbits w i hdecode
  rw [State.withFetchWord, hdecode]
  rfl

/-- Settles O29: with no record at Q_RD the engine's step is the termination test. -/
theorem terminationTestDecides : Obligations.TerminationTestDecides := by
  intro p s hin hphase hend
  rw [stepWith_core hin, coreStep_recon hphase, reconStep_of_end (List.getElem?_eq_none hend)]
  rfl

/-- What the host can read of the registers is a function of the seven it names. -/
theorem sameRegisters_of_eq {s t : State} (hphase : s.phase = t.phase) (herr : s.err = t.err)
    (hlen : s.bufLen = t.bufLen) (hwidth : s.width = t.width) (hheight : s.height = t.height)
    (hchannels : s.channels = t.channels) (hcolorspace : s.colorspace = t.colorspace) : SameRegisters s t := by
  intro k
  simp only [readReg, statusWord, errWord, hphase, herr, hlen, hwidth, hheight, hchannels, hcolorspace]

/-- Settles O30: the core's step there is `discard`, which touches no register the host can read. -/
theorem doneAndErrorAreStable : Obligations.DoneAndErrorAreStable := by
  intro p s hin hphase
  have hstep : stepWith p s = .next s.discard := by
    rw [stepWith_core hin]
    obtain hdone | herror := hphase
    · exact coreStep_done hdone
    · exact coreStep_error herror
  exact ⟨_, hstep, rfl, rfl, rfl, rfl, hin, sameRegisters_of_eq rfl rfl rfl rfl rfl rfl rfl, fun _ _ => rfl⟩

/-- Settles O31: the core's step in IDLE is the state itself. -/
theorem idleWaitsForTheHost : Obligations.IdleWaitsForTheHost := by
  intro p s hin hphase
  rw [stepWith_core hin, coreStep_idle hphase]

end Sys2Proof.Machine
end

section
/-! PROOFS. The host's moves and reads (spec 10_state.md R22 to R27, 20_memory.md R40, R46, R47,
48_host_commands_and_sequence.md R160, 70_reset_and_hazards.md R190 to R196). -/

namespace Sys2Proof.Machine

open Sys2Proof.Safety

theorem busy_eq_true_iff (s : State) : busy s = true ↔ s.phase = .hdr ∨ s.phase = .parse ∨ s.phase = .recon := by
  cases hphase : s.phase <;> simp [busy, hphase]

theorem busy_eq_false_iff (s : State) : busy s = false ↔ s.phase = .idle ∨ s.phase = .done ∨ s.phase = .error := by
  cases hphase : s.phase <;> simp [busy, hphase]

/-- Writing CTRL with bit 0 set is START, in the state with the move taken off. -/
theorem stepWith_start {p : Params} {s : State} {v : Nat} {ms : List HostMove} (hin : s.inputs = .writeReg 0 v :: ms)
    (hv : v.testBit 0 = true) : stepWith p s = hostStart p (s.setInputs ms) := by
  rw [stepWith, hin]
  exact if_pos hv

/-- An accepted START (R160). -/
theorem stepWith_start_of_not_busy {p : Params} {s : State} {v : Nat} {ms : List HostMove}
    (hin : s.inputs = .writeReg 0 v :: ms) (hv : v.testBit 0 = true) (hb : busy s = false) (hlen : s.bufLen ≤ p.ibufCap) :
    stepWith p s = .next (s.setInputs ms).start := by
  rw [stepWith_start hin hv, hostStart, busy_setInputs, hb, if_neg (by decide)]
  exact if_neg (Nat.not_lt.mpr hlen)

/-- Settles O37: `busy` tells the two groups of phases apart, and an accepted START leaves `State.start`. -/
theorem startInitialisesTheDecode : Obligations.StartInitialisesTheDecode := by
  intro p s v ms hin hv hlen
  refine ⟨fun hbusy => ?_, fun hidle => ?_⟩
  · rw [stepWith_start hin hv]
    exact if_pos ((busy_eq_true_iff s).mpr hbusy)
  refine ⟨_, stepWith_start_of_not_busy hin hv ((busy_eq_false_iff s).mpr hidle) hlen, rfl, rfl, rfl, fun k => ?_, rfl, rfl, rfl, rfl,
    rfl, rfl, rfl, rfl, rfl, rfl⟩
  exact Vector.getElem_replicate k.isLt

/-- Settles O38: outside a decode START compares BUF_LEN with IBUF_CAP first. -/
theorem oversizedLaunchIsRefused : Obligations.OversizedLaunchIsRefused := by
  intro p s v ms hin hv hb hlen
  rw [stepWith_start hin hv, hostStart, busy_setInputs, hb]
  exact if_pos hlen

theorem hostWriteBufLen_eq (p : Params) (v : Nat) (s : State) :
    hostWriteBufLen p v s = if busy s = false ∧ v ≤ p.ibufCap then { s with bufLen := v } else s := by
  rw [hostWriteBufLen]
  by_cases hb : busy s = true
  · simp [hb]
  · by_cases hv : p.ibufCap < v
    · simp [hv]
    · rw [if_neg hb, if_neg hv, if_pos ⟨by simpa using hb, Nat.not_lt.mp hv⟩]
      rfl

/-- Settles O39: register 3 by its two guards, CTRL by its bit 0, the others by the last arm. -/
theorem registerWritesAreGuarded : Obligations.RegisterWritesAreGuarded := by
  intro p s k v
  refine ⟨congrArg _ (hostWriteBufLen_eq p v s), fun hv => if_neg (by simp [hv]), fun h0 h3 => ?_⟩
  unfold hostWriteReg
  split
  · exact absurd rfl h0
  · exact absurd rfl h3
  · rfl

/-- Settles O40: STATUS and ERR case by case, the rest by the arm of the register. -/
theorem registerReadsShowOnlyTheRegisters : Obligations.RegisterReadsShowOnlyTheRegisters := by
  refine ⟨fun s => ⟨rfl, ?_, ?_, rfl, rfl, rfl, rfl, rfl⟩, fun s k hk => ?_, fun _ _ => sameRegisters_of_eq⟩
  · cases hphase : s.phase <;> simp [readReg, statusWord, phaseCode, hphase]
  · cases herr : s.err <;> simp [readReg, errWord, errCode, herr]
  · obtain ⟨n, rfl⟩ := Nat.exists_eq_add_of_le' hk
    rfl

/-- Settles O41: the two guards of the move, and a byte read after the write. -/
theorem loadedByteReadsBack : Obligations.LoadedByteReadsBack := by
  intro p s a b
  refine ⟨fun hb => ?_, fun hb hcap => ?_, fun hb hcap => ⟨s.storeInput a b, ?_, ?_, fun c hc => ?_, rfl⟩⟩
  · rw [hostLoadByte, if_pos hb]
  · rw [hostLoadByte, hb, if_neg (by decide), if_pos hcap]
  · rw [hostLoadByte, hb, if_neg (by decide), if_neg (Nat.not_le.mpr hcap)]
  · exact Memory.read_write_same s.ibuf a b
  · exact Memory.read_write_other s.ibuf b hc

/-- A pixel that reads has each of its four bytes in its place. -/
theorem Memory.read_of_pixelAt {m : Memory} {a : Nat} {px : Pixel} (h : Memory.pixelAt m a = some px) :
    Memory.read m a = some px.r ∧ Memory.read m (a + 1) = some px.g ∧ Memory.read m (a + 2) = some px.b ∧
      Memory.read m (a + 3) = some px.a := by
  unfold Memory.pixelAt at h
  split at h
  · cases h
    exact ⟨‹_›, ‹_›, ‹_›, ‹_›⟩
  · cases h

/-- In DONE, a byte of the grid below its end reads as what has been written there. -/
theorem readGridByte_of_done {s : State} {a : Nat} {b : Byte} (hphase : s.phase = .done) (ha : a < 4 * s.npix.toNat)
    (hread : Memory.read s.grid a = some b) : readGridByte s a = .next b := by
  rw [readGridByte, if_neg (not_not.mpr hphase), if_pos ha, hread]

/-- A grid entry that reads: in DONE, inside the image, with its pixel written. -/
theorem readGrid_next {s : State} {row col : Nat} {px : Pixel} (h : readGrid s row col = .next px) :
    s.phase = .done ∧ row < s.height.toNat ∧ col < s.width.toNat ∧
      Memory.pixelAt s.grid (s.entryAddr row col) = some px := by
  rw [readGrid] at h
  split_ifs at h with hphase hinside
  split at h
  · cases h
    have ⟨hrow, hcol⟩ := hinside
    exact ⟨not_not.mp hphase, hrow, hcol, ‹_›⟩
  · cases h

/-- Inside the image, entry numbers stay below NPIX. -/
theorem State.entry_lt_npix {s : State} {row col : Nat} (hrow : row < s.height.toNat) (hcol : col < s.width.toNat) :
    row * s.width.toNat + col < s.npix.toNat := by
  have hrows : (row + 1) * s.width.toNat ≤ s.height.toNat * s.width.toNat := Nat.mul_le_mul_right _ hrow
  rw [State.npix_toNat, Nat.mul_comm s.width.toNat]
  rw [Nat.succ_mul] at hrows
  omega

/-- Settles O42: an entry that reads has its four bytes written, below four times NPIX. -/
theorem gridReadableOnlyInDone : Obligations.GridReadableOnlyInDone := by
  intro s row col a
  refine ⟨fun hphase => ⟨if_pos hphase, if_pos hphase⟩, fun px h => ?_⟩
  obtain ⟨hphase, hrow, hcol, hpx⟩ := readGrid_next h
  obtain ⟨hr, hg, hb, ha⟩ := Memory.read_of_pixelAt hpx
  have hentry := State.entry_lt_npix hrow hcol
  exact ⟨hphase, hrow, hcol, readGridByte_of_done hphase (by omega) hr, readGridByte_of_done hphase (by omega) hg,
    readGridByte_of_done hphase (by omega) hb, readGridByte_of_done hphase (by omega) ha⟩

/-- Settles O43: the reset move leaves `State.hardReset`. -/
theorem resetAbandonsTheDecode : Obligations.ResetAbandonsTheDecode := by
  refine ⟨⟨rfl, rfl, rfl⟩, fun p s ms hin => ⟨(s.setInputs ms).hardReset, ?_, rfl, rfl, rfl, rfl, fun _ _ => rfl⟩⟩
  rw [stepWith, hin]
  rfl

end Sys2Proof.Machine
end

section
/-! PROOFS. The stretch of the grid a chunk paints: one form for the emitting kinds and for RUN (spec 42_engine_common.md R112;
46_chunk_run.md R151). -/

namespace Sys2Proof.Machine

open Sys2Proof.Safety

/-- A chunk overruns, or it paints its pixel, once or for the run's length, and moves Q_RD on; RUN_REM is then as it was or 0,
and PHASE, ERR.CODE, the header registers and the queue are kept. -/
theorem exec_overran_or_painted {i : Instr} {s t : State} (h : exec i s = .next t) :
    (t.phase = .error ∧ t.err = .bufferOverrun) ∨
    ∃ n px, Painted s t n px ∧ (t.runRem = s.runRem ∨ t.runRem = 0) ∧
      t = { s with grid := t.grid, cursor := t.cursor, runRem := t.runRem, prev := t.prev, cache := t.cache, qRd := s.qRd + 1 } := by
  by_cases hi : i.kind = .run
  · obtain ⟨m, rfl⟩ := eq_run_of_kind hi
    obtain ⟨hpainted, ht⟩ | ⟨_, _, _, ht⟩ := exec_run_cases h
    · exact .inr ⟨m.toNat + 1, s.prev, hpainted, .inr (congrArg State.runRem ht), by rw [ht]⟩
    · exact .inl ⟨congrArg State.phase ht, congrArg State.err ht⟩
  · obtain ⟨hroom, rfl⟩ | ⟨_, rfl⟩ := exec_emitting_cases hi h
    · exact .inr ⟨1, _, painted_emitted _ _ hroom, .inl rfl, rfl⟩
    · exact .inl ⟨rfl, rfl⟩

/-- Painting extends the filled part of the grid up to the new cursor. -/
theorem Painted.gridFilled {s t : State} {n : Nat} {px : Pixel} (hpainted : Painted s t n px)
    (hfilled : GridFilled s s.cursor.toNat) : GridFilled t t.cursor.toNat := by
  obtain ⟨_, hcursor, hin, hout⟩ := hpainted
  intro a
  rw [hcursor]
  by_cases hinside : 4 * s.cursor.toNat ≤ a ∧ a < 4 * (s.cursor.toNat + n)
  · have hbytes := Memory.read_of_pixelAt (hin (a / 4 - s.cursor.toNat) (by omega))
    rw [show 4 * (s.cursor.toNat + (a / 4 - s.cursor.toNat)) = 4 * (a / 4) by omega] at hbytes
    obtain ⟨h0, h1, h2, h3⟩ := hbytes
    have hread : (Memory.read t.grid a).isSome = true := by
      obtain hr | hr | hr | hr : a = 4 * (a / 4) ∨ a = 4 * (a / 4) + 1 ∨ a = 4 * (a / 4) + 2 ∨ a = 4 * (a / 4) + 3 := by
        omega
      · rw [hr, h0]; rfl
      · rw [hr, h1]; rfl
      · rw [hr, h2]; rfl
      · rw [hr, h3]; rfl
    have ⟨_, hbelow⟩ := hinside
    exact iff_of_true hread hbelow
  · rw [hout a (by omega), hfilled a]
    omega

end Sys2Proof.Machine
end

section
/-! PROOFS. The invariants: both memories canonical, and the phase machine's invariant kept by every step (spec 20_memory.md,
10_state.md R16 to R22, 42_engine_common.md R116). -/

namespace Sys2Proof.Machine

open Sys2Proof.Safety

/-! ### Canonical memories -/

theorem reconStep_grid_wf {s t : State} (hwf : Memory.wf s.grid = true) (h : reconStep s = .next t) :
    Memory.wf t.grid = true := by
  obtain ⟨i, _, hexec⟩ | ⟨_, ⟨_, rfl⟩ | ⟨_, rfl⟩⟩ := reconStep_cases h
  · exact exec_wf hwf hexec
  · exact hwf
  · exact hwf

/-- The core writes GRID through the engine alone. -/
theorem coreStep_grid_wf {p : Params} {s t : State} (hwf : Memory.wf s.grid = true) (h : coreStep p s = .next t) :
    Memory.wf t.grid = true := by
  obtain ⟨_, rfl⟩ | ⟨_, hstage⟩ | ⟨_, _, hparse⟩ | ⟨_, hrecon⟩ | ⟨_, rfl⟩ := coreStep_cases h
  · exact hwf
  · obtain ⟨_, rfl, _⟩ | ⟨_, rfl, _⟩ := headerStage_cases hstage <;> exact hwf
  · obtain rfl | ⟨_, _, _, _, rfl, _⟩ := parseStep_changes hparse <;> exact hwf
  · exact reconStep_grid_wf (s := s.setPhase .recon) hwf hrecon
  · exact hwf

theorem stepWith_wf {p : Params} {s t : State} (hibuf : Memory.wf s.ibuf = true) (hgrid : Memory.wf s.grid = true)
    (h : stepWith p s = .next t) : Memory.wf t.ibuf = true ∧ Memory.wf t.grid = true := by
  obtain ⟨ms, hcore | rfl | ⟨_, _, rfl⟩ | ⟨_, _, _, rfl⟩ | ⟨_, a, b, _, rfl⟩ | rfl⟩ := stepWith_cases h
  · obtain ⟨hsame, _⟩ := coreLeavesInputAlone p _ _ hcore
    exact ⟨hsame ▸ hibuf, coreStep_grid_wf (s := s.setInputs ms) hgrid hcore⟩
  · exact ⟨hibuf, hgrid⟩
  · exact ⟨hibuf, Memory.wf_nil⟩
  · exact ⟨hibuf, hgrid⟩
  · exact ⟨Memory.wf_write a b hibuf, hgrid⟩
  · exact ⟨Memory.wf_nil, Memory.wf_nil⟩

/-- Settles O44: the core writes GRID by pixels, the host IBUF by bytes, and START and reset empty them. -/
theorem memoriesStayCanonical : Obligations.MemoriesStayCanonical :=
  ⟨fun _ _ _ => stepWith_wf, fun _ _ => stepWith_wf⟩

/-! ### The invariant of PARSE and of RECON, PHASE itself apart -/

/-- The clause of `PhaseInv` for PARSE. -/
def ParseInv (p : Params) (s : State) : Prop :=
  EngineFresh s ∧ s.bitOff = 0 ∧ 14 ≤ s.byteIdx ∧ s.byteIdx ≤ s.bufLen ∧ s.q.length + 14 ≤ s.byteIdx ∧
  (∀ i ∈ s.q, i.WellFormed) ∧ s.npix.toNat ≤ p.gridCap

/-- The clause of `PhaseInv` for RECON. -/
def ReconInv (p : Params) (s : State) : Prop :=
  s.bitOff = 0 ∧ s.byteIdx = s.bufLen ∧ s.q.length + 14 ≤ s.bufLen ∧ (∀ i ∈ s.q, i.WellFormed) ∧
  s.npix.toNat ≤ p.gridCap ∧ s.qRd ≤ s.q.length ∧ s.cursor.toNat ≤ s.npix.toNat ∧ s.runRem = 0 ∧ CacheKeyed s ∧
  GridFilled s s.cursor.toNat

theorem phaseInv_parse_iff {p : Params} {s : State} (h : s.phase = .parse) : PhaseInv p s ↔ ParseInv p s := by
  rw [PhaseInv, h]
  rfl

theorem phaseInv_recon_iff {p : Params} {s : State} (h : s.phase = .recon) : PhaseInv p s ↔ ReconInv p s := by
  rw [PhaseInv, h]
  rfl

/-- In ERROR the invariant says nothing (R31). -/
theorem phaseInv_of_error {p : Params} {s : State} (h : s.phase = .error) : PhaseInv p s := by
  rw [PhaseInv, h]
  trivial

theorem cacheKeyed_of_blank {s : State} (h : s.cache = Vector.replicate 64 Pixel.blank) : CacheKeyed s := by
  intro k
  rw [h]
  exact .inl (Vector.getElem_replicate k.isLt)

theorem gridFilled_of_empty {s : State} (h : s.grid = []) : GridFilled s 0 := by
  intro a
  simp [h, Memory.read]

/-- A header that loads leaves the parser at byte 14 with nothing queued. -/
theorem parseInv_loadHeader {p : Params} {s : State} {hd : Header} (hfresh : EngineFresh s) (hq : s.q = [])
    (hlen : 14 ≤ s.bufLen) (hcap : (s.loadHeader hd).npix.toNat ≤ p.gridCap) : ParseInv p (s.loadHeader hd) := by
  refine ⟨hfresh, rfl, Nat.le_refl _, hlen, ?_, ?_, hcap⟩
  · simp [hq, Config.hdrLen]
  · simp [hq]

/-- A chunk accepted within the stream keeps the parser's invariant. -/
theorem parseInv_accept {p : Params} {s : State} {i : Instr} (hinv : ParseInv p s) (hwf : i.WellFormed)
    (hfits : s.byteIdx + i.kind.need / 8 ≤ s.bufLen) :
    ParseInv p { s with q := s.q ++ [i], byteIdx := s.byteIdx + i.kind.need / 8 } := by
  obtain ⟨hfresh, hoff, hmin, _, hq, hall, hcap⟩ := hinv
  have hneed := i.kind.need_ge
  refine ⟨hfresh, hoff, Nat.le_add_right_of_le hmin, hfits, ?_, ?_, hcap⟩
  · simp only [List.length_append, List.length_singleton]
    omega
  · intro j hj
    obtain hold | hnew := List.mem_append.mp hj
    · exact hall j hold
    · rw [List.mem_singleton.mp hnew]
      exact hwf

/-- Behind the last chunk the parser leaves what the engine starts from. -/
theorem reconInv_of_exhausted {p : Params} {s : State} (hinv : ParseInv p s) (hend : s.bufLen ≤ s.byteIdx) :
    ReconInv p s := by
  obtain ⟨⟨_, hcache, hcursor, hrun, hrd, hgrid⟩, hoff, _, hle, hq, hall, hcap⟩ := hinv
  refine ⟨hoff, Nat.le_antisymm hle hend, hq.trans hle, hall, hcap, ?_, ?_, hrun, cacheKeyed_of_blank hcache, ?_⟩
  · rw [hrd]
    exact Nat.zero_le _
  · rw [hcursor]
    exact Nat.zero_le _
  · rw [hcursor]
    exact gridFilled_of_empty hgrid

/-! ### Every step keeps the invariant -/

/-- An accepted chunk was whole in the stream. -/
theorem accepted_fits {s : State} {i : Instr} {bits rest : List Bool} (hoff : s.bitOff = 0)
    (hwindow : s.chunkWindow = .ok bits) (hdecode : decodeBits bits = .ok (i, rest)) :
    s.byteIdx + i.kind.need / 8 ≤ s.bufLen := by
  obtain ⟨_, hneed⟩ := decodeBits_ok hdecode
  have hlen := State.chunkWindow_length hwindow
  rw [State.remBits_of_boundary hoff] at hlen
  have hge := i.kind.need_ge
  omega

theorem parseStep_phaseInv {p : Params} {s t : State} (hphase : s.phase = .parse) (hinv : ParseInv p s)
    (h : parseStep s = .next t) : PhaseInv p t := by
  obtain rfl | ⟨i, bits, rest, hwindow, hdecode, rfl⟩ := parseStep_cases h
  · exact phaseInv_of_error rfl
  · obtain ⟨hwf, _⟩ := decodeBits_ok hdecode
    have ⟨_, hoff, _⟩ := hinv
    have hnext := parseInv_accept hinv hwf (accepted_fits hoff hwindow hdecode)
    rw [State.acceptChunk_of_boundary hoff]
    by_cases hend : s.bufLen ≤ s.byteIdx + i.kind.need / 8
    · exact (phaseInv_recon_iff (if_pos hend)).mpr (reconInv_of_exhausted hnext hend)
    · exact (phaseInv_parse_iff ((if_neg hend).trans hphase)).mpr hnext

/-- A chunk run keeps the engine's invariant, or ends in ERROR. -/
theorem exec_phaseInv {p : Params} {s t : State} {i : Instr} (hphase : s.phase = .recon) (hinv : ReconInv p s)
    (hi : s.q[s.qRd]? = some i) (h : exec i s = .next t) : PhaseInv p t := by
  obtain ⟨herror, _⟩ | ⟨n, px, hpainted, hrem, heq⟩ := exec_overran_or_painted h
  · exact phaseInv_of_error herror
  · obtain ⟨hoff, hidx, hlen, hall, hcap, _, hcursor, hrun, hkeyed, hfilled⟩ := hinv
    obtain ⟨hrd, _⟩ := List.getElem?_eq_some_iff.mp hi
    have hkeyed' : CacheKeyed t := cacheStaysKeyedByHash i s t hkeyed h
    obtain ⟨_, hcursor'⟩ := cursorStaysWithinTheGrid i s t hcursor h
    have hrem' : t.runRem = 0 := hrem.elim (·.trans hrun) id
    have hfilled' : GridFilled t t.cursor.toNat := hpainted.gridFilled hfilled
    have hphase' : t.phase = .recon := by rw [heq]; exact hphase
    rw [phaseInv_recon_iff hphase']
    rw [heq] at hkeyed' hcursor' hrem' hfilled' ⊢
    exact ⟨hoff, hidx, hlen, hall, hcap, hrd, hcursor', hrem', hkeyed', hfilled'⟩

theorem reconStep_phaseInv {p : Params} {s t : State} (hphase : s.phase = .recon) (hinv : ReconInv p s)
    (h : reconStep s = .next t) : PhaseInv p t := by
  obtain ⟨i, hi, hexec⟩ | ⟨_, ⟨hfull, rfl⟩ | ⟨_, rfl⟩⟩ := reconStep_cases h
  · exact exec_phaseInv hphase hinv hi hexec
  · obtain ⟨_, _, _, _, hcap, _, _, _, _, hfilled⟩ := hinv
    rw [hfull] at hfilled
    exact ⟨hcap, hfilled⟩
  · exact phaseInv_of_error rfl

/-- Where the engine's step is due, its invariant holds already. -/
theorem reconInv_of_engineDue {p : Params} {s : State} (hdue : EngineDue s) (hinv : PhaseInv p s) : ReconInv p s := by
  obtain hphase | ⟨hphase, hrem⟩ := hdue
  · exact (phaseInv_recon_iff hphase).mp hinv
  · have hparse := (phaseInv_parse_iff hphase).mp hinv
    have ⟨_, hoff, _⟩ := hparse
    rw [State.remBits_of_boundary hoff] at hrem
    exact reconInv_of_exhausted hparse (by omega)

/-- A core step keeps the clause of the phase it ends in. -/
theorem coreStep_phaseInv {p : Params} {s t : State} (hinv : PhaseInv p s) (h : coreStep p s = .next t) :
    PhaseInv p t := by
  obtain ⟨_, rfl⟩ | ⟨hphase, hstage⟩ | ⟨hphase, _, hparse⟩ | ⟨hdue, hrecon⟩ | ⟨hphase, rfl⟩ := coreStep_cases h
  · exact hinv
  · obtain ⟨_, rfl, _⟩ | ⟨hd, rfl, _, hcap, hlen⟩ := headerStage_cases hstage
    · exact phaseInv_of_error rfl
    · rw [PhaseInv, hphase] at hinv
      obtain ⟨hfresh, hq, _, _⟩ := hinv
      exact (phaseInv_parse_iff rfl).mpr (parseInv_loadHeader hfresh hq hlen hcap)
  · exact parseStep_phaseInv hphase ((phaseInv_parse_iff hphase).mp hinv) hparse
  · have hready : ReconInv p s := reconInv_of_engineDue hdue hinv
    exact reconStep_phaseInv (s := s.setPhase .recon) rfl hready hrecon
  · obtain hphase | hphase := hphase
    · rw [PhaseInv, hphase] at hinv
      rw [PhaseInv, State.discard_phase, hphase]
      exact hinv
    · exact phaseInv_of_error hphase

/-- Outside a decode the clause of the phase does not look at IBUF or BUF_LEN, which the host writes there. -/
theorem phaseInv_of_not_busy {p : Params} {s t : State} (hb : busy s = false) (hinv : PhaseInv p s)
    (hphase : t.phase = s.phase) (hnpix : t.npix = s.npix) (hgrid : t.grid = s.grid) : PhaseInv p t := by
  obtain hidle | hdone | herror := (busy_eq_false_iff s).mp hb
  · rw [PhaseInv, hphase, hidle]
    trivial
  · rw [PhaseInv, hdone] at hinv
    rw [PhaseInv, hphase, hdone]
    simp only [GridFilled, hnpix, hgrid]
    exact hinv
  · exact phaseInv_of_error (hphase.trans herror)

/-- The clause of the phase, by the agent that takes the step. -/
theorem stepWith_phaseInv {p : Params} {s t : State} (hinv : PhaseInv p s) (h : stepWith p s = .next t) :
    PhaseInv p t := by
  obtain ⟨ms, hcore | rfl | ⟨_, _, rfl⟩ | ⟨hb, _, _, rfl⟩ | ⟨hb, _, _, _, rfl⟩ | rfl⟩ := stepWith_cases h
  · exact coreStep_phaseInv (s := s.setInputs ms) hinv hcore
  · exact hinv
  · exact ⟨⟨rfl, rfl, rfl, rfl, rfl, rfl⟩, rfl, rfl, rfl⟩
  · exact phaseInv_of_not_busy hb hinv rfl rfl rfl
  · exact phaseInv_of_not_busy hb hinv rfl rfl rfl
  · trivial

/-- BUF_LEN stays within IBUF_CAP: the one writer checks it. -/
theorem stepWith_bufLen_le {p : Params} {s t : State} (hlen : s.bufLen ≤ p.ibufCap) (h : stepWith p s = .next t) :
    t.bufLen ≤ p.ibufCap := by
  obtain ⟨ms, hcore | rfl | ⟨_, _, rfl⟩ | ⟨_, v, hv, rfl⟩ | ⟨_, _, _, _, rfl⟩ | rfl⟩ := stepWith_cases h
  · obtain ⟨_, hsame, _⟩ := coreLeavesInputAlone p _ _ hcore
    exact hsame ▸ hlen
  · exact hlen
  · exact hlen
  · exact hv
  · exact hlen
  · exact Nat.zero_le _

theorem stepWith_inv {p : Params} {s t : State} (hinv : Inv p s) (h : stepWith p s = .next t) : Inv p t := by
  obtain ⟨hibuf, hgrid, hlen, herr, hphase⟩ := hinv
  obtain ⟨hibuf', hgrid'⟩ := stepWith_wf hibuf hgrid h
  have herr' := errorCodeExactlyInError p s t (not_iff_comm.mp herr.symm) h
  exact ⟨hibuf', hgrid', stepWith_bufLen_le hlen h, (not_iff_comm.mp herr').symm, stepWith_phaseInv hphase h⟩

/-- Settles O46: each clause of the invariant by its own lemma. -/
theorem stepKeepsTheInvariant : Obligations.StepKeepsTheInvariant :=
  ⟨fun _ _ _ => stepWith_inv, fun _ _ => stepWith_inv⟩

/-- Settles O47: after reset both memories are empty and the phase is IDLE, of which nothing is asked. -/
theorem resetMeetsTheInvariant : Obligations.ResetMeetsTheInvariant := fun _ _ =>
  ⟨rfl, rfl, Nat.zero_le _, iff_of_true rfl nofun, trivial⟩

/-- Four bytes that are all there make a pixel. -/
theorem Memory.pixelAt_of_isSome {m : Memory} {a : Nat} (h : ∀ j, j < 4 → (Memory.read m (a + j)).isSome = true) :
    ∃ px, Memory.pixelAt m a = some px := by
  obtain ⟨r, hr⟩ := Option.isSome_iff_exists.mp (h 0 (by decide))
  obtain ⟨g, hg⟩ := Option.isSome_iff_exists.mp (h 1 (by decide))
  obtain ⟨b, hb⟩ := Option.isSome_iff_exists.mp (h 2 (by decide))
  obtain ⟨al, ha⟩ := Option.isSome_iff_exists.mp (h 3 (by decide))
  rw [Nat.add_zero] at hr
  exact ⟨⟨r, g, b, al⟩, by simp only [Memory.pixelAt, hr, hg, hb, ha]⟩

/-- A grid entry inside the image, in DONE, reads as the pixel at its address. -/
theorem readGrid_of_done {s : State} {row col : Nat} {px : Pixel} (hphase : s.phase = .done)
    (hrow : row < s.height.toNat) (hcol : col < s.width.toNat)
    (hpx : Memory.pixelAt s.grid (s.entryAddr row col) = some px) : readGrid s row col = .next px := by
  rw [readGrid, if_neg (not_not.mpr hphase), if_pos ⟨hrow, hcol⟩, hpx]

/-- Settles O48: in DONE the grid is filled up to NPIX, and entry numbers are below it. -/
theorem doneGridIsComplete : Obligations.DoneGridIsComplete := by
  intro p s hinv hphase row col hrow hcol
  obtain ⟨_, _, _, _, hphaseInv⟩ := hinv
  rw [PhaseInv, hphase] at hphaseInv
  obtain ⟨_, hfilled⟩ := hphaseInv
  have hentry := State.entry_lt_npix hrow hcol
  obtain ⟨px, hpx⟩ := Memory.pixelAt_of_isSome (m := s.grid) (a := s.entryAddr row col) fun j hj =>
    (hfilled _).mpr (by unfold State.entryAddr; omega)
  exact ⟨px, readGrid_of_done hphase hrow hcol hpx⟩

end Sys2Proof.Machine
end

section
/-! PROOFS. The engine's chunks against the functional reading of the whole decode (spec 42_engine_common.md R110 to R119,
45_chunks_diff_luma.md R142, 46_chunk_run.md R151, 47_cache_hash.md R156). -/

namespace Sys2Proof.Machine

open Sys2Proof.Safety

/-- The machine's registers and grid hold what the functional engine holds. -/
def Tracks (e : Engine) (s : State) : Prop :=
  e.prev = s.prev ∧ (∀ k : BitVec 6, e.cache k.toNat = indexPixel s.cache k) ∧ s.cursor.toNat = e.out.length ∧
  ∀ (j : Nat) (px : Pixel), e.out[j]? = some px → Memory.pixelAt s.grid (4 * j) = some px

/-- A byte is the closed form of R142 when it is that integer modulo 256. -/
theorem ofInt_eq_of_toInt {b : Byte} {z : Int} (h : (b.toNat : Int) = z % 256) : BitVec.ofInt 8 z = b := by
  apply BitVec.eq_of_toNat_eq
  rw [BitVec.toNat_ofInt]
  change (z % 256).toNat = b.toNat
  omega

/-- The functional engine's emitting chunks are one `emit` each, of the machine's own pixel. -/
theorem Engine.chunk_eq_emit {e : Engine} {s : State} {i : Instr} (htracks : Tracks e s) (hi : i.kind ≠ .run)
    (npix : Nat) : e.chunk npix i = e.emit npix (s.newPixel i) (writesCache i) := by
  obtain ⟨hprev, hcache, _⟩ := htracks
  cases i with
  | rgb r g b => rw [Engine.chunk, hprev]; rfl
  | rgba r g b a => rfl
  | index slot => rw [Engine.chunk, hcache]; rfl
  | diff dr dg db =>
    rw [Engine.chunk, hprev, ofInt_eq_of_toInt (add8_diffDelta_toInt s.prev.r dr),
      ofInt_eq_of_toInt (add8_diffDelta_toInt s.prev.g dg), ofInt_eq_of_toInt (add8_diffDelta_toInt s.prev.b db)]
    rfl
  | luma dg drDg dbDg =>
    rw [Engine.chunk, hprev, ofInt_eq_of_toInt (add8_lumaRB_toInt s.prev.r dg drDg),
      ofInt_eq_of_toInt (add8_lumaG_toInt s.prev.g dg), ofInt_eq_of_toInt (add8_lumaRB_toInt s.prev.b dg dbDg)]
    rfl
  | run n => exact absurd rfl hi

/-- A pixel is where its four bytes are. -/
theorem Memory.pixelAt_congr {m m' : Memory} {a : Nat} (h : ∀ c, a ≤ c → c < a + 4 → Memory.read m' c = Memory.read m c) :
    Memory.pixelAt m' a = Memory.pixelAt m a := by
  unfold Memory.pixelAt
  rw [h a (by omega) (by omega), h (a + 1) (by omega) (by omega), h (a + 2) (by omega) (by omega),
    h (a + 3) (by omega) (by omega)]

/-- Painting a stretch appends its pixels to those the grid holds. -/
theorem Painted.holds {s t : State} {n : Nat} {px : Pixel} {out : List Pixel} (hpainted : Painted s t n px)
    (hlen : s.cursor.toNat = out.length)
    (hout : ∀ (j : Nat) (q : Pixel), out[j]? = some q → Memory.pixelAt s.grid (4 * j) = some q) (j : Nat) (q : Pixel)
    (hj : (out ++ List.replicate n px)[j]? = some q) : Memory.pixelAt t.grid (4 * j) = some q := by
  obtain ⟨_, _, hin, hkept⟩ := hpainted
  rcases Nat.lt_or_ge j out.length with hold | hnew
  · rw [List.getElem?_append_left hold] at hj
    rw [← hout j q hj]
    exact Memory.pixelAt_congr fun c _ _ => hkept c (by omega)
  · rw [List.getElem?_append_right hnew, List.getElem?_replicate] at hj
    split_ifs at hj with hlt
    cases hj
    have hpixel := hin (j - out.length) hlt
    rwa [hlen, Nat.add_sub_cancel' hnew] at hpixel

/-- An emitted pixel keeps the two engines together. -/
theorem tracks_emitted {e : Engine} {s : State} (htracks : Tracks e s) (new : Pixel) (u : Bool)
    (hroom : s.cursor.toNat < s.npix.toNat) :
    Tracks { prev := new, cache := if u then fun k => if k = wideHash new then new else e.cache k else e.cache,
             out := e.out ++ [new] } (emitted new u s).advanceQ := by
  obtain ⟨_, hcache, hlen, hout⟩ := htracks
  have hpainted := painted_emitted new u hroom
  refine ⟨rfl, fun k => ?_, ?_, hpainted.holds hlen hout⟩
  · cases u with
    | false => exact hcache k
    | true =>
      obtain ⟨hsame, hother⟩ := emitted_advanceQ_cachedAt new s
      simp only [if_true, ← pixelHash_toNat, BitVec.toNat_inj]
      split_ifs with hk
      · rw [hk, hsame]
      · rw [hother k hk, hcache k]
  · have ⟨_, hcursor, _⟩ := hpainted
    rw [hcursor, hlen, List.length_append, List.length_singleton]

/-- One chunk, both ways: the same overrun, or the two engines still together, Q_RD one further. -/
theorem exec_tracks {e : Engine} {s : State} (htracks : Tracks e s) (i : Instr) :
    (e.chunk s.npix.toNat i = .error .bufferOverrun ∧
      ∃ t, exec i s = .next t ∧ t.phase = .error ∧ t.err = .bufferOverrun) ∨
    ∃ e' t, e.chunk s.npix.toNat i = .ok e' ∧ exec i s = .next t ∧ Tracks e' t ∧
      t = { s with grid := t.grid, cursor := t.cursor, runRem := t.runRem, prev := t.prev, cache := t.cache, qRd := s.qRd + 1 } := by
  have ⟨hprev, hcache, hlen, hout⟩ := htracks
  by_cases hi : i.kind = .run
  · obtain ⟨n, rfl⟩ := eq_run_of_kind hi
    rw [Engine.chunk]
    by_cases hroom : n.toNat + 1 ≤ s.npix.toNat - e.out.length
    · obtain ⟨t, hexec, hpainted, ht⟩ := exec_run_of_room (run := n) (s := s) (by omega)
      have ⟨_, hcursor, _⟩ := hpainted
      have hkept : t.prev = s.prev ∧ t.cache = s.cache := by rw [ht]; exact ⟨rfl, rfl⟩
      obtain ⟨hprev', hcache'⟩ := hkept
      refine .inr ⟨_, t, if_pos hroom, hexec, ⟨hprev.trans hprev'.symm, by rw [hcache']; exact hcache, ?_, ?_⟩, by rw [ht]⟩
      · rw [hcursor, hlen, List.length_append, List.length_replicate]
      · rw [hprev]
        exact hpainted.holds hlen hout
    · obtain ⟨t, hexec, _, _, ht⟩ := exec_run_of_overrun (run := n) (s := s) (by omega)
      exact .inl ⟨if_neg hroom, t, hexec, congrArg State.phase ht, congrArg State.err ht⟩
  · rw [Engine.chunk_eq_emit htracks hi, Engine.emit, ← hlen]
    rcases Nat.lt_or_ge s.cursor.toNat s.npix.toNat with hroom | hfull
    · exact .inr ⟨_, _, if_neg (Nat.not_le.mpr hroom), exec_of_room hi hroom, tracks_emitted htracks _ _ hroom, rfl⟩
    · exact .inl ⟨if_pos hfull, _, exec_of_full hi hfull, rfl, rfl⟩

end Sys2Proof.Machine
end

section
/-! PROOFS. The phase machine computes decode(buf), within the step bound (spec 48_host_commands_and_sequence.md R161 to R165). -/

namespace Sys2Proof.Machine

open Sys2Proof.Safety

/-! ### Runs -/

/-- Within `n` steps a state with `P` is reached. -/
def ReachesWithin (p : Params) (n : Nat) (s : State) (P : State → Prop) : Prop :=
  ∃ k t, k ≤ n ∧ runWith p k s = .next t ∧ P t

theorem reachesWithin_now {p : Params} {s : State} {P : State → Prop} (n : Nat) (h : P s) : ReachesWithin p n s P :=
  ⟨0, s, Nat.zero_le n, rfl, h⟩

theorem ReachesWithin.trans {p : Params} {n m : Nat} {s : State} {P Q : State → Prop} (h : ReachesWithin p n s P)
    (hnext : ∀ u, P u → ReachesWithin p m u Q) : ReachesWithin p (n + m) s Q := by
  obtain ⟨k, u, hk, hrun, hu⟩ := h
  obtain ⟨l, t, hl, hrun', ht⟩ := hnext u hu
  exact ⟨k + l, t, Nat.add_le_add hk hl, runWith_add hrun hrun', ht⟩

theorem ReachesWithin.mono {p : Params} {n m : Nat} {s : State} {P Q : State → Prop} (h : ReachesWithin p n s P)
    (hle : n ≤ m) (himp : ∀ t, P t → Q t) : ReachesWithin p m s Q := by
  obtain ⟨k, t, hk, hrun, ht⟩ := h
  exact ⟨k, t, hk.trans hle, hrun, himp t ht⟩

theorem runWith_one {p : Params} {s t : State} (h : stepWith p s = .next t) : runWith p 1 s = .next t := by
  rw [runWith, h]
  rfl

theorem reachesWithin_step {p : Params} {n : Nat} {s u : State} {P : State → Prop} (hstep : stepWith p s = .next u)
    (h : ReachesWithin p n u P) : ReachesWithin p (n + 1) s P := by
  obtain ⟨k, t, hk, hrun, ht⟩ := h
  refine ⟨1 + k, t, by omega, runWith_add (runWith_one hstep) hrun, ht⟩

/-! ### The engine's stage -/

/-- The header registers hold `h`. -/
def HeaderLoaded (h : Header) (s : State) : Prop :=
  s.width = h.width ∧ s.height = h.height ∧ s.channels = h.channels ∧ s.colorspace = h.colorspace

/-- The end of a decode whose header is `h`, with the pixels or the error of `reconstruct`. -/
def Ended (h : Header) (r : Except ErrKind (List Pixel)) (t : State) : Prop :=
  match r with
  | .error e => t.phase = .error ∧ t.err = e
  | .ok pixels =>
    t.phase = .done ∧ t.err = .noError ∧ HeaderLoaded h t ∧ pixels.length = h.width.toNat * h.height.toNat ∧
    ∀ row col, row < h.height.toNat → col < h.width.toNat →
      ∃ px, pixels[row * h.width.toNat + col]? = some px ∧ readGrid t row col = .next px

/-- `reconstruct` from the middle: engine `e`, chunks `is` still to run, and then the termination test. -/
def Engine.finish (h : Header) (e : Engine) (is : List Instr) : Except ErrKind (List Pixel) :=
  match e.chunks (h.width.toNat * h.height.toNat) is with
  | .error k => .error k
  | .ok e' => if e'.out.length = h.width.toNat * h.height.toNat then .ok e'.out else .error .incompleteImage

theorem reconstruct_eq_finish (h : Header) (is : List Instr) : reconstruct h is = Engine.init.finish h is := rfl

theorem Engine.finish_nil (h : Header) (e : Engine) :
    e.finish h [] =
      if e.out.length = h.width.toNat * h.height.toNat then .ok e.out else .error .incompleteImage := rfl

theorem Engine.finish_cons_error {h : Header} {e : Engine} {i : Instr} {k : ErrKind} (is : List Instr)
    (hchunk : e.chunk (h.width.toNat * h.height.toNat) i = .error k) : e.finish h (i :: is) = .error k := by
  rw [Engine.finish, Engine.chunks, hchunk]

theorem Engine.finish_cons_ok {h : Header} {e e' : Engine} {i : Instr} (is : List Instr)
    (hchunk : e.chunk (h.width.toNat * h.height.toNat) i = .ok e') : e.finish h (i :: is) = e'.finish h is := by
  rw [Engine.finish, Engine.chunks, hchunk]
  rfl

/-- The machine in the engine's stage: `e` reconstructed so far, the records `is` still in Q, no host move due. -/
def EngineAt (h : Header) (e : Engine) (is : List Instr) (s : State) : Prop :=
  EngineDue s ∧ s.inputs = [] ∧ s.err = .noError ∧ HeaderLoaded h s ∧ s.q.drop s.qRd = is ∧ Tracks e s

theorem HeaderLoaded.npix {h : Header} {s : State} (hheader : HeaderLoaded h s) :
    s.npix.toNat = h.width.toNat * h.height.toNat := by
  obtain ⟨hwidth, hheight, _, _⟩ := hheader
  rw [State.npix_toNat, hwidth, hheight]

/-- The termination test ends the decode as `finish` of no chunks says. -/
theorem engineAt_nil {p : Params} {h : Header} {e : Engine} {s : State} (hat : EngineAt h e [] s) :
    ReachesWithin p 1 s (Ended h (e.finish h [])) := by
  obtain ⟨hdue, hin, herr, hheader, hq, _, _, hlen, hout⟩ := hat
  have hstep : stepWith p s = terminationTest (s.setPhase .recon) := by
    rw [stepWith_core hin, coreStep_of_engineDue hdue]
    exact reconStep_of_end (List.getElem?_eq_none (List.drop_eq_nil_iff.mp hq))
  have hnpix := hheader.npix
  have hfull : s.cursor = s.npix ↔ e.out.length = h.width.toNat * h.height.toNat := by
    rw [← BitVec.toNat_inj, hlen, hnpix]
  rw [Engine.finish_nil]
  rw [terminationTest, State.setPhase_cursor, State.npix_setPhase] at hstep
  by_cases hcomplete : e.out.length = h.width.toNat * h.height.toNat
  · rw [if_pos (hfull.mpr hcomplete)] at hstep
    rw [if_pos hcomplete]
    refine reachesWithin_step hstep (reachesWithin_now 0 ⟨rfl, herr, hheader, hcomplete, fun row col hrow hcol => ?_⟩)
    obtain ⟨hwidth, hheight, _, _⟩ := hheader
    have hentry := State.entry_lt_npix (s := s) (hheight ▸ hrow) (hwidth ▸ hcol)
    rw [hnpix, ← hcomplete, hwidth] at hentry
    have hpx := List.getElem?_eq_getElem hentry
    refine ⟨_, hpx, readGrid_of_done rfl (hheight ▸ hrow) (hwidth ▸ hcol) ?_⟩
    rw [← hout _ _ hpx, ← hwidth]
    rfl
  · rw [if_neg (mt hfull.mp hcomplete)] at hstep
    rw [if_neg hcomplete]
    exact reachesWithin_step hstep (reachesWithin_now 0 ⟨rfl, rfl⟩)

/-- The engine runs its records one per step and ends as `finish` says. -/
theorem engineAt_ends {p : Params} {h : Header} {is : List Instr} {e : Engine} {s : State} (hat : EngineAt h e is s) :
    ReachesWithin p (is.length + 1) s (Ended h (e.finish h is)) := by
  induction is generalizing e s with
  | nil => exact engineAt_nil hat
  | cons i is ih =>
    obtain ⟨hdue, hin, herr, hheader, hq, htracks⟩ := hat
    have hi : s.q[s.qRd]? = some i := by
      have hhead := congrArg (·[0]?) hq
      simpa only [List.getElem?_drop, Nat.add_zero, List.getElem?_cons_zero] using hhead
    have hstep : stepWith p s = exec i (s.setPhase .recon) := by
      rw [stepWith_core hin, coreStep_of_engineDue hdue]
      exact reconStep_of_record hi
    have hnpix : (s.setPhase .recon).npix.toNat = h.width.toNat * h.height.toNat := hheader.npix
    obtain ⟨hchunk, t, hexec, hphase, hover⟩ | ⟨e', t, hchunk, hexec, htracks', ht⟩ :=
      exec_tracks (s := s.setPhase .recon) htracks i
    · rw [hnpix] at hchunk
      rw [Engine.finish_cons_error is hchunk]
      exact reachesWithin_step (hstep.trans hexec) (reachesWithin_now _ ⟨hphase, hover⟩)
    · rw [hnpix] at hchunk
      rw [Engine.finish_cons_ok is hchunk]
      refine reachesWithin_step (hstep.trans hexec) (ih ?_)
      have hq' : s.q.drop (s.qRd + 1) = is := by rw [← List.tail_drop, hq, List.tail_cons]
      rw [ht] at htracks' ⊢
      exact ⟨.inl rfl, hin, herr, hheader, hq', htracks'⟩

/-! ### The parser's stage -/

/-- The machine in the parser's stage: the bytes `bs` still to parse, no host move due. -/
def ParserAt (bs : List Byte) (s : State) : Prop :=
  s.phase = .parse ∧ s.inputs = [] ∧ s.bitOff = 0 ∧ Memory.bytes s.ibuf s.byteIdx (s.bufLen - s.byteIdx) = some bs ∧
  s.byteIdx ≤ s.bufLen

/-- The end of the parser's stage from `s` over `n` bytes: the parse error, or the records queued and the engine's step due. -/
def Parsed (s : State) (n : Nat) (r : Except ErrKind (List Instr)) (t : State) : Prop :=
  match r with
  | .error e => t.phase = .error ∧ t.err = e
  | .ok is => is.length ≤ n ∧ EngineDue t ∧ t = { s with q := s.q ++ is, byteIdx := s.bufLen, phase := t.phase }

/-- A parsed rest, with the chunk in front of it already queued. -/
theorem Parsed.cons {s t : State} {n m idx : Nat} {ph : Phase} {i : Instr} {r : Except ErrKind (List Instr)} (hlt : n < m)
    (h : Parsed { s with q := s.q ++ [i], byteIdx := idx, phase := ph } n r t) : Parsed s m (consChunk i r) t := by
  cases r with
  | error e => exact h
  | ok is =>
    obtain ⟨hlen, hdue, ht⟩ := h
    refine ⟨Nat.succ_le_of_lt (Nat.lt_of_le_of_lt hlen hlt), hdue, ?_⟩
    simpa only [List.append_assoc, List.singleton_append] using ht

/-- The parser takes one chunk per step and ends as the byte-wise parser says. -/
theorem parserAt_ends {p : Params} {bs : List Byte} {s : State} (hat : ParserAt bs s) :
    ReachesWithin p bs.length s (Parsed s bs.length (parseBytes bs)) := by
  induction hn : bs.length using Nat.strong_induction_on generalizing bs s with
  | _ n ih =>
    obtain ⟨hphase, hin, hoff, hbytes, hle⟩ := hat
    have hlen := Memory.bytes_length hbytes
    cases bs with
    | nil =>
      have hend : s.byteIdx = s.bufLen := by
        rw [List.length_nil] at hlen
        omega
      refine reachesWithin_now n ⟨Nat.zero_le n, .inr ⟨hphase, ?_⟩, ?_⟩
      · rw [State.remBits_of_boundary hoff, hend, Nat.sub_self]
      · rw [List.append_nil]
        cases s
        cases hend
        rfl
    | cons b0 tail =>
      obtain ⟨m, rfl⟩ : ∃ m, n = m + 1 := ⟨tail.length, hn.symm⟩
      have hcore : stepWith p s = parseStep s := by
        rw [stepWith_core hin, coreStep_parse hphase, parseStage, if_neg]
        rw [State.remBits_of_boundary hoff, ← hlen, List.length_cons]
        omega
      have hparse : parseBytes (b0 :: tail) = decodeThenParse (b0 :: tail) := parseBytes_cons b0 tail
      rw [decodeThenParse] at hparse
      obtain ⟨hdecode, hstep⟩ | ⟨i, rest, hdecode, hshorter, hrest, hstep⟩ :=
        parseStep_of_bytes hoff hbytes (List.cons_ne_nil b0 tail)
      · rw [hparse, hdecode]
        exact reachesWithin_step (hcore.trans hstep) (reachesWithin_now m ⟨rfl, rfl⟩)
      · rw [hparse, hdecode]
        have hlt : rest.length < m + 1 := hn ▸ hshorter
        refine reachesWithin_step (hcore.trans hstep) ?_
        by_cases hnil : rest = []
        · subst hnil
          exact reachesWithin_now m ⟨hlt, .inl rfl, rfl⟩
        · have hat' : ParserAt rest
              { s with q := s.q ++ [i], byteIdx := s.bufLen - rest.length, phase := if rest = [] then .recon else s.phase } := by
            refine ⟨(if_neg hnil).trans hphase, hin, hoff, ?_, Nat.sub_le _ _⟩
            change Memory.bytes s.ibuf (s.bufLen - rest.length) (s.bufLen - (s.bufLen - rest.length)) = some rest
            rwa [Nat.sub_sub_self (by omega)]
          exact (ih rest.length hlt hat' rfl).mono (by omega) fun _ ht => ht.cons hlt

/-! ### From the launch on -/

/-- The functional engine's start is what START leaves in the registers. -/
theorem tracks_init {s : State} (hfresh : EngineFresh s) : Tracks Engine.init s := by
  obtain ⟨hprev, hcache, hcursor, _⟩ := hfresh
  refine ⟨hprev.symm, fun k => ?_, by rw [hcursor]; rfl, fun j px hj => nomatch hj⟩
  rw [hcache]
  exact (Vector.getElem_replicate k.isLt).symm

/-- The end of a decode, by decode(buf)'s answer. -/
def DecodeEnded (r : Except ErrKind (Header × List Pixel)) (t : State) : Prop :=
  match r with
  | .error e => t.phase = .error ∧ t.err = e
  | .ok (h, pixels) => Ended h (.ok pixels) t

/-- With the header and the chunks parsed, decode(buf) answers as `reconstruct` does. -/
theorem decodeEnded_of_ended {sig : BitVec 32} {buf rest : List Byte} {h : Header} {is : List Instr} {t : State}
    (hparse : parseHeader sig buf = .ok (h, rest)) (hbytes : parseBytes rest = .ok is)
    (hended : Ended h (reconstruct h is) t) : DecodeEnded (decodeBuffer sig buf) t := by
  rw [decodeBuffer, hparse]
  simp only [hbytes]
  cases hrec : reconstruct h is <;>
  · rw [hrec] at hended
    exact hended

/-- Behind the parser's stage the engine reconstructs what was queued. -/
theorem parsed_ends {p : Params} {h : Header} {is : List Instr} {n : Nat} {s t : State} (hin : s.inputs = [])
    (hheader : HeaderLoaded h s) (hfresh : EngineFresh s) (hq : s.q = []) (herr : s.err = .noError)
    (hparsed : Parsed s n (.ok is) t) : ReachesWithin p (n + 1) t (Ended h (reconstruct h is)) := by
  obtain ⟨hle, hdue, ht⟩ := hparsed
  have hat : EngineAt h Engine.init is t := by
    have ⟨_, _, _, _, hrd, _⟩ := hfresh
    rw [ht] at hdue ⊢
    refine ⟨hdue, hin, herr, hheader, ?_, tracks_init hfresh⟩
    rw [hq, hrd]
    rfl
  rw [reconstruct_eq_finish]
  exact (engineAt_ends hat).mono (Nat.succ_le_succ hle) fun _ hended => hended

/-- From the header loaded on, with nothing queued, the machine ends as decode(buf). -/
theorem loaded_decodes {p : Params} {h : Header} {buf rest : List Byte} {s : State}
    (hparse : parseHeader p.sig buf = .ok (h, rest)) (hat : ParserAt rest s) (hheader : HeaderLoaded h s)
    (hfresh : EngineFresh s) (hq : s.q = []) (herr : s.err = .noError) :
    ReachesWithin p (2 * rest.length + 1) s (DecodeEnded (decodeBuffer p.sig buf)) := by
  have hparsed := parserAt_ends (p := p) hat
  cases hbytes : parseBytes rest with
  | error e =>
    rw [hbytes] at hparsed
    rw [decodeBuffer, hparse]
    simp only [hbytes]
    exact hparsed.mono (by omega) fun _ ht => ht
  | ok is =>
    rw [hbytes] at hparsed
    obtain ⟨_, hin, _⟩ := hat
    have hends := hparsed.trans fun t ht => parsed_ends (p := p) hin hheader hfresh hq herr ht
    exact hends.mono (by omega) fun _ ht => decodeEnded_of_ended hparse hbytes ht

/-- From a launch the machine ends as decode(buf) within R165's bound. -/
theorem launch_decodes {p : Params} {s : State} {buf : List Byte} (hlaunch : Launch p s buf) (hfits : GridFits p buf)
    (hin : s.inputs = [.writeReg 0 1]) :
    ReachesWithin p (3 + 2 * (buf.length - 14)) s (DecodeEnded (decodeBuffer p.sig buf)) := by
  obtain ⟨hb, hcap, hlen, hbytes⟩ := hlaunch
  have hbuf : HoldsBuffer (s.setInputs []).start buf := ⟨hlen, hbytes⟩
  have hheader : stepWith p (s.setInputs []).start = headerStage p (s.setInputs []).start := by
    rw [stepWith_core rfl, coreStep_hdr rfl]
  rw [show 3 + 2 * (buf.length - 14) = 2 * (buf.length - 14) + 1 + 1 + 1 by omega]
  refine reachesWithin_step (stepWith_start_of_not_busy hin rfl hb hcap) ?_
  cases hparse : parseHeader p.sig buf with
  | error k =>
    rw [headerStage_of_error hbuf hparse] at hheader
    rw [decodeBuffer, hparse]
    exact reachesWithin_step hheader (reachesWithin_now _ ⟨rfl, rfl⟩)
  | ok hr =>
    obtain ⟨h, rest⟩ := hr
    rw [headerStage_of_ok hbuf hparse, if_neg (Nat.not_lt.mpr (hfits h rest hparse))] at hheader
    obtain ⟨hmin, _, _, rfl⟩ := parseHeader_ok hparse
    have hdrop := Memory.bytes_drop hbytes hmin
    rw [Nat.zero_add, ← hlen] at hdrop
    refine reachesWithin_step hheader ?_
    rw [← List.length_drop]
    exact loaded_decodes hparse ⟨rfl, rfl, rfl, hdrop, hlen ▸ hmin⟩ ⟨rfl, rfl, rfl, rfl⟩ ⟨rfl, rfl, rfl, rfl, rfl, rfl⟩ rfl rfl

/-- Settles O49: START, the header stage, the parser's stage and the engine's stage, each against its part of decode(buf). -/
theorem machineComputesDecode : Obligations.MachineComputesDecode := by
  intro p s buf hlaunch hfits hin
  obtain ⟨k, t, hk, hrun, ht⟩ := launch_decodes hlaunch hfits hin
  refine ⟨k, t, hk, hrun, ?_⟩
  cases hdecode : decodeBuffer p.sig buf with
  | error e =>
    rw [hdecode] at ht
    exact ht
  | ok hp =>
    rw [hdecode] at ht
    obtain ⟨hphase, herr, ⟨hwidth, hheight, hchannels, hcolorspace⟩, hlen, hgrid⟩ := ht
    exact ⟨hphase, herr, hwidth, hheight, hchannels, hcolorspace, hlen, hgrid⟩

/-- Settles O50: decode(buf) ends in DONE or ERROR. -/
theorem everyDecodeEnds : Obligations.EveryDecodeEnds := by
  intro p s buf hlaunch hfits hin
  refine (launch_decodes hlaunch hfits hin).mono (Nat.le_refl _) fun t ht => ?_
  cases hdecode : decodeBuffer p.sig buf with
  | error e =>
    rw [hdecode] at ht
    obtain ⟨herror, _⟩ := ht
    exact .inr herror
  | ok hp =>
    rw [hdecode] at ht
    obtain ⟨hdone, _⟩ := ht
    exact .inl hdone

end Sys2Proof.Machine
end

section
/-! PROOFS. Two decodes of one buffer: what their machines may differ in, kept at every step (spec 10_state.md R31,
42_engine_common.md R118). -/

namespace Sys2Proof.Machine

open Sys2Proof.Safety

/-! ### The header stage reads IBUF and BUF_LEN alone -/

theorem State.memRead_of_ibuf {s s' : State} (hibuf : s'.ibuf = s.ibuf) (a n : Nat) : s'.memRead a n = s.memRead a n := by
  simp only [State.memRead, hibuf]

theorem State.readHeader_of_ibuf {s s' : State} (hibuf : s'.ibuf = s.ibuf) : s'.readHeader = s.readHeader := by
  simp only [State.readHeader, State.memRead_of_ibuf hibuf]

/-- Two machines with one buffer raise the same error in the header stage or load the same header. -/
theorem headerStage_of_same_input {p : Params} {s s' t : State} (hibuf : s'.ibuf = s.ibuf) (hlen : s'.bufLen = s.bufLen)
    (h : headerStage p s = .next t) :
    (∃ k, (k = .truncated ∨ k = .badSignature) ∧ t = s.raise k ∧ headerStage p s' = .next (s'.raise k)) ∨
    ∃ hd, t = s.loadHeader hd ∧ headerStage p s' = .next (s'.loadHeader hd) := by
  have hnpix (hd : Header) : (s'.loadHeader hd).npix = (s.loadHeader hd).npix := rfl
  unfold headerStage at h ⊢
  simp only [hlen, State.memRead_of_ibuf hibuf, State.readHeader_of_ibuf hibuf, hnpix]
  repeat' split at h
  all_goals cases h
  · exact .inl ⟨_, .inl rfl, rfl, by simp [*]⟩
  · exact .inl ⟨_, .inr rfl, rfl, by simp [*]⟩
  · exact .inl ⟨_, .inl rfl, rfl, by simp [*]⟩
  · exact .inr ⟨_, rfl, by simp [*]⟩

/-! ### Parser and engine do not read the model's counter -/

/-- The model's own counter set. -/
def State.setFreeCtr (n : Nat) (s : State) : State := { s with freeCtr := n }

theorem State.streamBits_setFreeCtr (n m pos : Nat) (s : State) :
    (s.setFreeCtr n).streamBits pos m = s.streamBits pos m := by
  induction m generalizing pos with
  | zero => rfl
  | succ m ih =>
    simp only [State.streamBits, ih]
    rfl

theorem State.chunkWindow_setFreeCtr (n : Nat) (s : State) : (s.setFreeCtr n).chunkWindow = s.chunkWindow := by
  simp only [State.chunkWindow, State.streamBits_setFreeCtr]
  rfl

theorem State.acceptChunk_setFreeCtr (n : Nat) (s : State) (i : Instr) :
    (s.setFreeCtr n).acceptChunk i = (s.acceptChunk i).setFreeCtr n := by
  rw [State.acceptChunk_eq, State.acceptChunk_eq]
  rfl

theorem parseStep_setFreeCtr (n : Nat) {s t : State} (h : parseStep s = .next t) :
    parseStep (s.setFreeCtr n) = .next (t.setFreeCtr n) := by
  rw [parseStep] at h ⊢
  rw [State.chunkWindow_setFreeCtr]
  cases hwindow : s.chunkWindow with
  | error f =>
    rw [hwindow] at h
    cases h
  | ok bits =>
    simp only [hwindow] at h ⊢
    cases hdecode : decodeBits bits with
    | error e =>
      simp only [hdecode] at h ⊢
      cases h
      rfl
    | ok ir =>
      simp only [hdecode] at h ⊢
      cases h
      rw [State.acceptChunk_setFreeCtr]

theorem exec_setFreeCtr (n : Nat) {i : Instr} {s t : State} (h : exec i s = .next t) :
    exec i (s.setFreeCtr n) = .next (t.setFreeCtr n) := by
  obtain ⟨_, _, _, _, _, _, _, _, rfl, _⟩ := exec_changes h
  exact exec_setUnread s.channels s.colorspace n h

theorem reconStep_setFreeCtr (n : Nat) {s t : State} (h : reconStep s = .next t) :
    reconStep (s.setFreeCtr n) = .next (t.setFreeCtr n) := by
  obtain ⟨i, hi, hexec⟩ | ⟨hend, hlast⟩ := reconStep_cases h
  · rw [reconStep_of_record (s := s.setFreeCtr n) hi]
    exact exec_setFreeCtr n hexec
  · rw [reconStep_of_end (s := s.setFreeCtr n) hend]
    obtain ⟨hfull, rfl⟩ | ⟨hfull, rfl⟩ := hlast
    · exact if_pos hfull
    · exact if_neg hfull

/-- In PARSE and RECON the core's step does not read the counter. -/
theorem coreStep_setFreeCtr {p : Params} (n : Nat) {s t : State} (hphase : s.phase = .parse ∨ s.phase = .recon)
    (h : coreStep p s = .next t) : coreStep p (s.setFreeCtr n) = .next (t.setFreeCtr n) := by
  obtain hparse | hrecon := hphase
  · rw [coreStep_parse hparse] at h
    rw [coreStep_parse (s := s.setFreeCtr n) hparse]
    obtain ⟨hrem, hstep⟩ | ⟨hrem, hstep⟩ := parseStage_cases h
    · exact (if_pos hrem).trans (reconStep_setFreeCtr n hstep)
    · exact (if_neg hrem).trans (parseStep_setFreeCtr n hstep)
  · rw [coreStep_recon hrecon] at h
    rw [coreStep_recon (s := s.setFreeCtr n) hrecon]
    exact reconStep_setFreeCtr n h

/-! ### The relation of the two machines -/

/-- The header registers of the two machines agree. -/
def SameHeader (s s' : State) : Prop :=
  s'.width = s.width ∧ s'.height = s.height ∧ s'.channels = s.channels ∧ s'.colorspace = s.colorspace

/-- The header registers, undefined in HDR, and the model's counter set. -/
def State.setUndefined (w h : BitVec 32) (c d : Byte) (n : Nat) (s : State) : State :=
  { s with width := w, height := h, channels := c, colorspace := d, freeCtr := n }

/-- In HDR the machines differ in the header registers, undefined there, and in the model's counter alone. -/
def SameBeforeHeader (s s' : State) : Prop :=
  s.phase = .hdr ∧ ∃ w h c d n, s' = s.setUndefined w h c d n

/-- While chunks are parsed and run the machines differ in the model's counter alone. -/
def SameWhileRunning (s s' : State) : Prop := (s.phase = .parse ∨ s.phase = .recon) ∧ ∃ n, s' = s.setFreeCtr n

/-- At the end the registers the host cannot read are free; what the host can be sure of agrees. -/
def SameAtEnd (s s' : State) : Prop :=
  (s.phase = .done ∨ s.phase = .error) ∧ s'.phase = s.phase ∧ s'.err = s.err ∧ s'.grid = s.grid ∧
  s.inputs = [] ∧ s'.inputs = [] ∧ (headerSure s = true → SameHeader s s')

/-- Two machines at the same step of two decodes of one buffer, with no host move due. -/
def SameDecode (s s' : State) : Prop :=
  (s.inputs = [] ∧ SameBeforeHeader s s') ∨ (s.inputs = [] ∧ SameWhileRunning s s') ∨ SameAtEnd s s'

/-- Behind a step in PARSE or RECON, machines that differ in the counter alone are still in the relation. -/
theorem sameDecode_setFreeCtr {p : Params} (n : Nat) {s t : State} (hphase : s.phase = .parse ∨ s.phase = .recon)
    (hin : t.inputs = []) (h : coreStep p s = .next t) : SameDecode t (t.setFreeCtr n) := by
  obtain ⟨hidle, hhdr⟩ : t.phase ≠ .idle ∧ t.phase ≠ .hdr := by
    obtain hlisted | ⟨_, _, hlisted⟩ := onlyTheListedTransitions p s t h
    · constructor <;>
      · intro ht
        rw [ht] at hlisted
        obtain hs | hs := hphase <;> rw [hs] at hlisted <;> cases hlisted
    · constructor <;>
      · intro ht
        rw [ht] at hlisted
        cases hlisted
  cases ht : t.phase with
  | idle => exact absurd ht hidle
  | hdr => exact absurd ht hhdr
  | parse => exact .inr (.inl ⟨hin, .inl ht, n, rfl⟩)
  | recon => exact .inr (.inl ⟨hin, .inr ht, n, rfl⟩)
  | done => exact .inr (.inr ⟨.inl ht, rfl, rfl, rfl, hin, hin, fun _ => ⟨rfl, rfl, rfl, rfl⟩⟩)
  | error => exact .inr (.inr ⟨.inr ht, rfl, rfl, rfl, hin, hin, fun _ => ⟨rfl, rfl, rfl, rfl⟩⟩)

/-- After an error of the header stage the host cannot be sure of the header registers. -/
theorem sameDecode_raise {s s' : State} {k : ErrKind} (hk : k = .truncated ∨ k = .badSignature) (hin : s.inputs = [])
    (hin' : s'.inputs = []) (hgrid : s'.grid = s.grid) : SameDecode (s.raise k) (s'.raise k) := by
  refine .inr (.inr ⟨.inr rfl, rfl, rfl, hgrid, hin, hin', fun hsure => ?_⟩)
  obtain rfl | rfl := hk <;> cases hsure

/-- A core step keeps two decodes of one buffer together. -/
theorem coreStep_sameDecode {p : Params} {s s' t : State} (hsame : SameDecode s s') (h : coreStep p s = .next t) :
    ∃ t', coreStep p s' = .next t' ∧ SameDecode t t' := by
  obtain ⟨hin, hphase, w, ht, c, d, n, rfl⟩ | ⟨hin, hphase, n, rfl⟩ |
    ⟨hphase, hphase', herr, hgrid, hin, hin', hheader⟩ := hsame
  · rw [coreStep_hdr hphase] at h
    rw [coreStep_hdr (s := s.setUndefined w ht c d n) hphase]
    obtain ⟨k, hk, rfl, hstage⟩ | ⟨hd, rfl, hstage⟩ := 
      headerStage_of_same_input (s := s) (s' := s.setUndefined w ht c d n) rfl rfl h
    · exact ⟨_, hstage, sameDecode_raise hk hin hin rfl⟩
    · exact ⟨_, hstage, .inr (.inl ⟨hin, .inl rfl, n, rfl⟩)⟩
  · obtain ⟨_, _, hinputs, _⟩ := coreLeavesInputAlone p s t h
    exact ⟨_, coreStep_setFreeCtr n hphase h, sameDecode_setFreeCtr n hphase (hinputs.trans hin) h⟩
  · have hdiscard {u : State} (hu : u.phase = .done ∨ u.phase = .error) : coreStep p u = .next u.discard :=
      hu.elim coreStep_done coreStep_error
    rw [hdiscard hphase] at h
    cases h
    exact ⟨_, hdiscard (hphase'.symm ▸ hphase), .inr (.inr ⟨hphase, hphase', herr, hgrid, hin, hin', hheader⟩)⟩

theorem SameDecode.inputs {s s' : State} (hsame : SameDecode s s') : s.inputs = [] ∧ s'.inputs = [] := by
  obtain ⟨hin, _, _, _, _, _, _, rfl⟩ | ⟨hin, _, _, rfl⟩ | ⟨_, _, _, _, hin, hin', _⟩ := hsame
  · exact ⟨hin, hin⟩
  · exact ⟨hin, hin⟩
  · exact ⟨hin, hin'⟩

/-- Any number of steps keeps two decodes of one buffer together. -/
theorem runWith_sameDecode {p : Params} {k : Nat} {s s' t : State} (hsame : SameDecode s s')
    (h : runWith p k s = .next t) : ∃ t', runWith p k s' = .next t' ∧ SameDecode t t' := by
  induction k generalizing s s' with
  | zero =>
    cases h
    exact ⟨s', rfl, hsame⟩
  | succ k ih =>
    obtain ⟨hin, hin'⟩ := hsame.inputs
    rw [runWith, stepWith_core hin] at h
    cases hstep : coreStep p s with
    | next u =>
      rw [hstep] at h
      obtain ⟨u', hstep', hsame'⟩ := coreStep_sameDecode hsame hstep
      rw [runWith, stepWith_core hin', hstep']
      exact ih hsame' h
    | fault f =>
      rw [hstep] at h
      cases h
    | refused r =>
      rw [hstep] at h
      cases h

/-- START leaves two machines with one buffer in the relation. -/
theorem start_sameDecode {s s' : State} (hibuf : s.ibuf = s'.ibuf) (hlen : s.bufLen = s'.bufLen) :
    SameDecode (s.setInputs []).start (s'.setInputs []).start := by
  refine .inl ⟨rfl, rfl, Config.freeWidth s'.freeCtr, Config.freeHeight s'.freeCtr, Config.freeChannels s'.freeCtr,
    Config.freeColorspace s'.freeCtr, s'.freeCtr + 1, ?_⟩
  simp only [State.start, State.setInputs, State.setUndefined, hibuf, hlen]

/-- What the relation lets the host see. -/
theorem SameDecode.visible {s s' : State} (hsame : SameDecode s s') :
    s'.phase = s.phase ∧ s'.err = s.err ∧ s'.grid = s.grid ∧ (headerSure s = true → SameHeader s s') := by
  obtain ⟨_, hphase, _, _, _, _, _, rfl⟩ | ⟨_, _, _, rfl⟩ | ⟨_, hphase, herr, hgrid, _, _, hheader⟩ := hsame
  · refine ⟨rfl, rfl, rfl, fun hsure => ?_⟩
    rw [headerSure, hphase] at hsure
    cases hsure
  · exact ⟨rfl, rfl, rfl, fun _ => ⟨rfl, rfl, rfl, rfl⟩⟩
  · exact ⟨hphase, herr, hgrid, hheader⟩

/-- Settles O51: both launches take START, which brings the machines into the relation every step keeps. -/
theorem decodeDependsOnTheBufferAlone : Obligations.DecodeDependsOnTheBufferAlone := by
  intro p s s' k t hb hb' hibuf hlen hin hin' hrun
  by_cases hcap : s.bufLen ≤ p.ibufCap
  · have hstep := stepWith_start_of_not_busy hin rfl hb hcap
    have hstep' := stepWith_start_of_not_busy hin' rfl hb' (hlen ▸ hcap)
    rw [runWith, hstep] at hrun
    obtain ⟨t', hrun', hsame⟩ := runWith_sameDecode (start_sameDecode hibuf hlen) hrun
    obtain ⟨hphase, herr, hgrid, hheader⟩ := hsame.visible
    refine ⟨t', ?_, hphase, herr, hgrid, hheader⟩
    rw [runWith, hstep']
    exact hrun'
  · rw [runWith, oversizedLaunchIsRefused p s 1 [] hin rfl hb (Nat.lt_of_not_le hcap)] at hrun
    cases hrun

end Sys2Proof.Machine
end
